-- ==== Sys2Proof/Word.lean ====
section
/-! DEFINITION. The block's two data widths (spec/00_scope.md R7, R10, R15): every datapath value is an
unsigned 32-bit word or an unsigned byte. -/

namespace Sys2Proof

/-- A register, bus or command word (R7: bus data width, accumulator width, command word width). -/
abbrev Word := BitVec 32

/-- An input symbol (R7: 8 bits) and the IMM8 and OPC fields of a command word (R81). -/
abbrev Byte := BitVec 8

end Sys2Proof
end

