-- ==== Sys2Proof/Config.lean ====
section
/-! DEFINITION. The fixed constants of the CRC variant (spec/00_scope.md R4, R7) and the open platform
parameter CRC_BASE (R8). BUILD_LATENCY, the other open parameter, is a field of State (log entry 3), and
BUS_PROTOCOL is not modelled below the abstract access (log entry 14). -/

namespace Sys2Proof.Config

/-- POLY, CRC-32/IEEE in un-reflected form (R4). -/
def poly : Word := 0x04C11DB7#32

/-- INIT, the accumulator's created value (R4). -/
def initAcc : Word := 0xFFFFFFFF#32

/-- XOROUT, the final complement (R4). -/
def xorOut : Word := 0xFFFFFFFF#32

/-- The number of table entries (R7). -/
def tableSize : Nat := 256

/-- The size of the register window in bytes (R7). -/
def windowBytes : Nat := 32

/-- CRC_BASE divided by 32: the platform's choice, so it has no body (R8, R60; log entry 13). -/
opaque crcBaseBlock : Nat

/-- CRC_BASE, a multiple of 32 (R8). -/
def crcBase : Nat := windowBytes * crcBaseBlock

end Sys2Proof.Config
end

