-- ==== Sys2Proof/Syntax.lean ====
section
/-! DEFINITION. The eleven commands of the opcode map (spec/30_encoding.md R83), with the operands the
assembler syntax of R88 gives them. -/

namespace Sys2Proof

/-- One constructor per row of spec/opcode_table.json. No command names a register (R82). -/
inductive Instr where
  /-- NOP (R150). -/
  | nop
  /-- REVBITS (R100). -/
  | revbits
  /-- BSWAP (R101). -/
  | bswap
  /-- TBUILD (R116). -/
  | tbuild
  /-- TREAD k, the table index 0..255 (R117). -/
  | tread (k : Nat)
  /-- AINIT (R130). -/
  | ainit
  /-- ALOAD (R131). -/
  | aload
  /-- UPDB b, the data byte (R133). -/
  | updb (b : Byte)
  /-- UPDW c, the byte count 1..4, which is N + 1 (R88, R134). -/
  | updw (c : Nat)
  /-- FINAL (R135). -/
  | final
  /-- CLRERR (R151). -/
  | clrerr
  deriving DecidableEq, Repr

end Sys2Proof
end

