-- ==== Sys2Proof/WellFormed.lean ====
section
/-! DEFINITION. Which instruction terms have an encoding: "An assembler rejects an operand out of range"
(spec/30_encoding.md R88). -/

namespace Sys2Proof

/-- The operand ranges of R88. A data byte is in range by its type. -/
def Instr.wf : Instr → Bool
  | .nop => true
  | .revbits => true
  | .bswap => true
  | .tbuild => true
  | .tread k => decide (k < Config.tableSize)
  | .ainit => true
  | .aload => true
  | .updb _ => true
  | .updw c => decide (1 ≤ c) && decide (c ≤ 4)
  | .final => true
  | .clrerr => true

end Sys2Proof
end

