-- ==== Sys2Proof/Decode.lean ====
section
/-! DEFINITION. Decode and encode of a command word (spec/30_encoding.md R81 to R88). A command is one
32-bit register value whose fields are numbered by bit, never by byte address (R56, R81). -/

namespace Sys2Proof

/-- Why a word is ILLEGAL: the three kinds of R85. -/
inductive Reject where
  /-- RSV ≠ 0. -/
  | reservedBits
  /-- OPC in 0x0B to 0xFF. -/
  | reservedOpcode
  /-- N or IMM8 set where the opcode does not use the field. -/
  | unusedField
  deriving DecidableEq, Repr

/-- What Decode (R84) answers: one of the eleven commands, or ILLEGAL with its kind. -/
inductive Decoded where
  | command (i : Instr)
  | illegal (why : Reject)
  deriving DecidableEq, Repr

/-- OPC, bits 31:24 (R81). -/
def opcField (v : Word) : Byte := v.extractLsb' 24 8

/-- RSV, bits 23:10 (R81). -/
def rsvField (v : Word) : BitVec 14 := v.extractLsb' 10 14

/-- N, bits 9:8 (R81). -/
def nField (v : Word) : BitVec 2 := v.extractLsb' 8 2

/-- IMM8, bits 7:0 (R81). -/
def imm8Field (v : Word) : Byte := v.extractLsb' 0 8

/-- A command that uses neither N nor IMM8 (R84, the last case). -/
def plainCommand (n : BitVec 2) (imm : Byte) (i : Instr) : Decoded :=
  if n = 0#2 ∧ imm = 0#8 then .command i else .illegal .unusedField

/-- The opcode map of R83 with the field checks of R84, once RSV and the opcode range are checked. -/
def decodeFields (opc : Byte) (n : BitVec 2) (imm : Byte) : Decoded :=
  if opc = 0x00#8 then plainCommand n imm .nop
  else if opc = 0x01#8 then plainCommand n imm .revbits
  else if opc = 0x02#8 then plainCommand n imm .bswap
  else if opc = 0x03#8 then plainCommand n imm .tbuild
  else if opc = 0x04#8 then
    if n = 0#2 then .command (.tread imm.toNat) else .illegal .unusedField
  else if opc = 0x05#8 then plainCommand n imm .ainit
  else if opc = 0x06#8 then plainCommand n imm .aload
  else if opc = 0x07#8 then
    if n = 0#2 then .command (.updb imm) else .illegal .unusedField
  else if opc = 0x08#8 then
    if imm = 0#8 then .command (.updw (n.toNat + 1)) else .illegal .unusedField
  else if opc = 0x09#8 then plainCommand n imm .final
  else if opc = 0x0A#8 then plainCommand n imm .clrerr
  else .illegal .reservedOpcode

/-- `Decode(v)` of R84: total on every 32-bit word; it needs nothing but the word (R87). -/
def decode (v : Word) : Decoded :=
  if rsvField v ≠ 0#14 then .illegal .reservedBits
  else decodeFields (opcField v) (nField v) (imm8Field v)

/-- OPC of each command (R83). -/
def opcode : Instr → Byte
  | .nop => 0x00#8
  | .revbits => 0x01#8
  | .bswap => 0x02#8
  | .tbuild => 0x03#8
  | .tread _ => 0x04#8
  | .ainit => 0x05#8
  | .aload => 0x06#8
  | .updb _ => 0x07#8
  | .updw _ => 0x08#8
  | .final => 0x09#8
  | .clrerr => 0x0A#8

/-- The N field of a command: the byte count minus one for UPDW, 0 in every other command (R81). -/
def nOf : Instr → BitVec 2
  | .nop => 0#2
  | .revbits => 0#2
  | .bswap => 0#2
  | .tbuild => 0#2
  | .tread _ => 0#2
  | .ainit => 0#2
  | .aload => 0#2
  | .updb _ => 0#2
  | .updw c => BitVec.ofNat 2 (c - 1)
  | .final => 0#2
  | .clrerr => 0#2

/-- The IMM8 field of a command: TREAD's index, UPDB's byte, 0 in every other command (R81). -/
def imm8Of : Instr → Byte
  | .nop => 0#8
  | .revbits => 0#8
  | .bswap => 0#8
  | .tbuild => 0#8
  | .tread k => BitVec.ofNat 8 k
  | .ainit => 0#8
  | .aload => 0#8
  | .updb b => b
  | .updw _ => 0#8
  | .final => 0#8
  | .clrerr => 0#8

/-- The command word laid out as R81 draws it, RSV = 0. -/
def encode (i : Instr) : Word := opcode i ++ (0#14 : BitVec 14) ++ nOf i ++ imm8Of i

/-- The assembler of R88: it rejects an operand out of range. -/
def assemble (i : Instr) : Option Word := if i.wf then some (encode i) else none

/-- The mnemonic of a command (R83). -/
def Instr.mnemonic : Instr → String
  | .nop => "NOP"
  | .revbits => "REVBITS"
  | .bswap => "BSWAP"
  | .tbuild => "TBUILD"
  | .tread _ => "TREAD"
  | .ainit => "AINIT"
  | .aload => "ALOAD"
  | .updb _ => "UPDB"
  | .updw _ => "UPDW"
  | .final => "FINAL"
  | .clrerr => "CLRERR"

/-- A row of the match and mask table of R84: the legal words are those with `v AND mask = match`. -/
structure OpcodeRow where
  mnemonic : String
  value : Word
  mask : Word
  deriving DecidableEq, Repr

/-- The match and mask table of R84. -/
def opcodeRows : List OpcodeRow :=
  [⟨"NOP", 0x00000000#32, 0xFFFFFFFF#32⟩,
   ⟨"REVBITS", 0x01000000#32, 0xFFFFFFFF#32⟩,
   ⟨"BSWAP", 0x02000000#32, 0xFFFFFFFF#32⟩,
   ⟨"TBUILD", 0x03000000#32, 0xFFFFFFFF#32⟩,
   ⟨"TREAD", 0x04000000#32, 0xFFFFFF00#32⟩,
   ⟨"AINIT", 0x05000000#32, 0xFFFFFFFF#32⟩,
   ⟨"ALOAD", 0x06000000#32, 0xFFFFFFFF#32⟩,
   ⟨"UPDB", 0x07000000#32, 0xFFFFFF00#32⟩,
   ⟨"UPDW", 0x08000000#32, 0xFFFFFCFF#32⟩,
   ⟨"FINAL", 0x09000000#32, 0xFFFFFFFF#32⟩,
   ⟨"CLRERR", 0x0A000000#32, 0xFFFFFFFF#32⟩]

/-- `v` matches the row: `(v AND mask) = match` (R84). -/
def OpcodeRow.covers (r : OpcodeRow) (v : Word) : Bool := v &&& r.mask == r.value

/-- The instruction the decoder reads from the opcode table's word `w` of `nbits` bits (bits above `nbits`
are 0). A command is exactly 32 bits long (R87), so a larger number is no command word. -/
def decodeTableWord (nbits w : Nat) : Option Instr :=
  if w % 2 ^ nbits < 2 ^ 32 then
    match decode (BitVec.ofNat 32 (w % 2 ^ nbits)) with
    | .command i => some i
    | .illegal _ => none
  else none

end Sys2Proof
end

