-- ==== Sys2Proof/Machine/State.lean ====
section
/-! DEFINITION. The block's state (spec/10_state.md R20 and R36), the inputs and outputs of its ports
(spec/20_memory.md R50), and the ways a step can stop. All of it is plain data. -/

namespace Sys2Proof.Machine

/-- TSTATE, the table state (R27). The encoding 3 is never produced, so it is no constructor
(U11; log entry 15). -/
inductive TState where
  | unbuilt
  | building
  | built
  deriving DecidableEq, Repr

/-- STATUS.ERRCODE (R26, R30, R164). The codes 3 to 15 are never produced, so they are no constructors
(U11; log entry 15). -/
inductive ErrCode where
  | noError
  | illegal
  | overrun
  deriving DecidableEq, Repr

/-- PCMD: the command that waits for a build is a TREAD, an UPDB or an UPDW (R35). Its fields OPC, N and
IMM8 are computed in Operands.lean. -/
inductive LatchedCmd where
  | tread (imm8 : Byte)
  | updb (imm8 : Byte)
  | updw (n : BitVec 2)
  deriving DecidableEq, Repr

/-- PCMD and POPND, which hold a value exactly while PV = 1 (R35, U2; log entry 7). -/
structure Pending where
  pcmd : LatchedCmd
  popnd : Word
  deriving DecidableEq, Repr

/-- The reference sequencer of R113, form (b) of R36. Outside `writing` its registers hold no value
(U3; log entry 5). -/
inductive Sequencer where
  /-- Before step 0 of the build. -/
  | beforeStep0
  /-- RPOLY, CSTEP, CI and CJ; the next micro-step writes TBL[CI + CJ]. -/
  | writing (rpoly cstep : Word) (ci cj : Nat)
  /-- All 256 entries are written. -/
  | finished
  deriving DecidableEq, Repr

/-- The constructor's progress (R36): idle, or the count BREM of constructor steps still to take, form (a),
beside the sequencer, form (b). -/
inductive Progress where
  | idle
  | active (brem : Nat) (seq : Sequencer)
  deriving DecidableEq, Repr

/-- A request the port samples with req_valid = 1 (R50): req_write, req_off, req_be and req_wdata. -/
structure Request where
  write : Bool
  off : BitVec 5
  be : BitVec 4
  wdata : Word
  deriving DecidableEq, Repr

/-- What one rising clk edge samples (R50): rst, the request if req_valid = 1, and whether the constructor
takes its step in this cycle and with how many micro-steps, which the spec leaves free (R61, R113; log
entries 1 and 4). -/
structure Cycle where
  rst : Bool
  construct : Option Nat
  req : Option Request
  deriving DecidableEq, Repr

/-- The response ports after a clock edge (R50): no access was answered; a write was accepted; a read was
accepted with rsp_rdata; or rsp_err = 1, where a read returns no value (R53). -/
inductive Response where
  | silent
  | written
  | data (v : Word)
  | error
  deriving DecidableEq, Repr

/-- The table RAM as (index, word) pairs in one canonical form: indices strictly rising and below 256. An
unlisted entry has no value (R34, U1; log entries 6 and 17). -/
abbrev Memory := List (Nat × Word)

/-- The whole machine. The first eight fields are the block's state (R20); the last three are the model's
own (log entries 1, 3 and 9). -/
structure State where
  /-- OPND (R22). -/
  opnd : Word
  /-- RES (R23). -/
  res : Word
  /-- ACC (R24). -/
  acc : Word
  /-- STATUS.TSTATE (R27). -/
  tstate : TState
  /-- STATUS.ERRCODE (R30). -/
  errcode : ErrCode
  /-- TBL[0..255] (R32). -/
  tbl : Memory
  /-- PV, PCMD and POPND: PV = 1 is `some` (R35). -/
  pend : Option Pending
  /-- The constructor's progress (R36). -/
  progress : Progress
  /-- BUILD_LATENCY (R8), a parameter that no step changes (log entry 3). -/
  buildLatency : Nat
  /-- What the ports carry at the coming clock edges, oldest first (log entry 1). -/
  inputs : List Cycle
  /-- What the last clock edge answered (log entry 9). -/
  rsp : Response
  deriving DecidableEq, Repr

/-- Why a step can end in a fault. -/
inductive Fault where
  /-- An illegal access (R52, R53). Raised by the host-port step; `step` answers it with rsp_err = 1 and
  goes on (R165; log entry 8). Safe: the block's state is unchanged. -/
  | busError (off : BitVec 5)
  /-- A read of a table entry that has no value (U1). Raised by a table read; no state that meets the
  invariant of Safety.lean reaches it. Safe: the model stops. -/
  | tblNoValue (index : Nat)
  /-- A table index outside 0..255, which R67 rules out. Raised by a table read or write; no state that
  meets the invariant reaches it. Safe: the model stops. -/
  | tblNoEntry (index : Nat)
  deriving DecidableEq, Repr

/-- Why an instruction can be refused. -/
inductive Refusal where
  /-- An instruction with no meaning yet. Raised by exec's arms only; no arm raises it. Safe. -/
  | notModelled (mnemonic : String)
  /-- An operand outside the range of R88: no command word encodes it, so no access issues it. Raised by the
  meanings of TREAD and UPDW on an ill-formed term only (log entry 11). Safe. -/
  | operandOutOfRange (mnemonic : String)
  deriving DecidableEq, Repr

/-- The machine right after reset (R20, R190). TBL holds no value; the last three fields are the model's own
(log entries 1, 3 and 9). -/
def State.reset : State where
  opnd := 0x00000000#32
  res := 0x00000000#32
  acc := Config.initAcc
  tstate := .unbuilt
  errcode := .noError
  tbl := []
  pend := none
  progress := .idle
  buildLatency := 256
  inputs := []
  rsp := .silent

end Sys2Proof.Machine
end

