-- ==== Sys2Proof/Machine/Flags.lean ====
section
/-! DEFINITION. STATUS and its fields (spec/10_state.md R26, R29, R30). No data-path result sets a flag
(R38); STATUS is computed from TSTATE, PV and ERRCODE. -/

namespace Sys2Proof.Machine

/-- STATUS[1:0] (R26; the encoding is decision D34). -/
def TState.bits : TState → BitVec 2
  | .unbuilt => 0#2
  | .building => 1#2
  | .built => 2#2

/-- STATUS[11:8] (R26, R164). -/
def ErrCode.bits : ErrCode → BitVec 4
  | .noError => 0#4
  | .illegal => 1#4
  | .overrun => 2#4

/-- BUSY = 1 exactly when TSTATE = Building (R29). -/
def busy (s : State) : Bool := decide (s.tstate = .building)

/-- PV, which is PEND (R29, R35). -/
def pv (s : State) : Bool := s.pend.isSome

/-- STATUS as a bus read returns it: 31:12 read 0, ERRCODE 11:8, 7:4 read 0, PEND 3, BUSY 2, TSTATE 1:0
(R26). -/
def statusWord (s : State) : Word :=
  (0#20 : BitVec 20) ++ s.errcode.bits ++ (0#4 : BitVec 4) ++ BitVec.ofBool (pv s) ++ BitVec.ofBool (busy s)
    ++ s.tstate.bits

/-- The first-error rule: a code is recorded only when ERRCODE = 0 (R30). -/
def recordError (code old : ErrCode) : ErrCode :=
  match old with
  | .noError => code
  | .illegal => .illegal
  | .overrun => .overrun

end Sys2Proof.Machine
end

