-- ==== Sys2Proof/Machine/Operands.lean ====
section
/-! DEFINITION. Operand assembly (spec/30_encoding.md R82), bytes of a word (spec/00_scope.md R9,
spec/20_memory.md R54), the two transforms of the bit-reversal unit (spec/40_bitreverse.md R100, R101), and
the fields of the pending command (spec/10_state.md R35). -/

namespace Sys2Proof.Machine

/-- "Byte k" of a word, `w[8k+7:8k]`, which is also byte lane k of the bus (R9, R54). -/
def byteOf (w : Word) (k : Nat) : Byte := w.extractLsb' (8 * k) 8

/-- Bytes 0 to c-1 of a word, byte 0 first: what UPDW feeds (R134) and the stream order of a little-endian
word (R55). -/
def firstBytes (c : Nat) (w : Word) : List Byte := (List.range c).map (byteOf w)

/-- The four bytes in which a host serialises a word, least significant first (R57; the serialisation
itself is outside the block). -/
def serialize (w : Word) : List Byte := firstBytes 4 w

/-- UPDW's byte count, `cnt = N + 1` (R82). -/
def byteCount (n : BitVec 2) : Nat := n.toNat + 1

/-- `reverseBits(x)`: r[i] = x[31 - i] for i = 0..31 (R100). -/
def reverseBits (x : Word) : Word :=
  (List.range 32).foldl (fun r i => r ||| ((x >>> (31 - i)) &&& 1#32) <<< i) 0#32

/-- `reverseByteOrder(x) = {x[7:0], x[15:8], x[23:16], x[31:24]}` (R101). -/
def reverseByteOrder (x : Word) : Word := byteOf x 0 ++ byteOf x 1 ++ byteOf x 2 ++ byteOf x 3

/-- RPOLY (R7, R102). -/
def rpoly : Word := reverseBits Config.poly

/-- PCMD.OPC, 8 bits (R35, R83). -/
def LatchedCmd.opc : LatchedCmd → Byte
  | .tread _ => 0x04#8
  | .updb _ => 0x07#8
  | .updw _ => 0x08#8

/-- PCMD.N, 2 bits (R35). -/
def LatchedCmd.nField : LatchedCmd → BitVec 2
  | .tread _ => 0#2
  | .updb _ => 0#2
  | .updw n => n

/-- PCMD.IMM8, 8 bits (R35). -/
def LatchedCmd.imm8Field : LatchedCmd → Byte
  | .tread k => k
  | .updb b => b
  | .updw _ => 0#8

/-- The 18 bits of PCMD: OPC, N, IMM8 (R20, R35). -/
def LatchedCmd.bits (p : LatchedCmd) : BitVec 18 := p.opc ++ p.nField ++ p.imm8Field

end Sys2Proof.Machine
end

