-- ==== Sys2Proof/Machine/Ops.lean ====
section
/-! DEFINITION. The shared operations: register writes, the table RAM, recording a command error (the
block's only error entry, spec/60_exceptions.md R160; it has no trap and no trap return, R168, R169), the
issue conditions (spec/30_encoding.md R80), starting a build (spec/41_table.md R111), the update rule
(spec/42_accumulator.md R132) and reset (spec/70_reset_and_hazards.md R190). -/

namespace Sys2Proof.Machine

/-- How one step ends. -/
abbrev Result := Host.Outcome State Fault Refusal

/-- Run `f` on the next state, if there is one. -/
def Result.andThen (r : Result) (f : State → Result) : Result :=
  match r with
  | .next s => f s
  | .fault e => .fault e
  | .refused e => .refused e

/-! ## Register writes: one home for each register -/

def setOpnd (v : Word) (s : State) : State := { s with opnd := v }
def setRes (v : Word) (s : State) : State := { s with res := v }
def setAcc (v : Word) (s : State) : State := { s with acc := v }
def setTState (v : TState) (s : State) : State := { s with tstate := v }
def setErrcode (v : ErrCode) (s : State) : State := { s with errcode := v }
def setTbl (v : Memory) (s : State) : State := { s with tbl := v }
def setPend (v : Option Pending) (s : State) : State := { s with pend := v }
def setProgress (v : Progress) (s : State) : State := { s with progress := v }

/-- Drive the response ports (R50). -/
def respond (v : Response) (s : State) : State := { s with rsp := v }

/-- The coming clock edge is sampled: it leaves the queue, and nothing is answered yet. -/
def popInput (s : State) : State := { s with inputs := s.inputs.tail, rsp := .silent }

/-! ## The table RAM (R32, R34) -/

/-- TBL[k], if the entry has a value. -/
def Memory.read : Memory → Nat → Option Word
  | [], _ => none
  | (j, v) :: m, k => if k = j then some v else Memory.read m k

/-- TBL[k] <- v, keeping the canonical form. -/
def Memory.write : Memory → Nat → Word → Memory
  | [], k, v => [(k, v)]
  | (j, w) :: m, k, v =>
    if k < j then (k, v) :: (j, w) :: m
    else if k = j then (k, v) :: m
    else (j, w) :: Memory.write m k v

/-- Indices strictly rising, at least `lo` and below 256. -/
def Memory.wfFrom : Nat → Memory → Bool
  | _, [] => true
  | lo, (k, _) :: m => decide (lo ≤ k) && decide (k < Config.tableSize) && Memory.wfFrom (k + 1) m

/-- The canonical form of the table RAM. -/
def Memory.wf (m : Memory) : Bool := Memory.wfFrom 0 m

/-- A read of TBL[k]: an index outside 0..255 names no entry (R11, R67), and an entry without a value cannot
be read (U1). -/
def readTbl (t : Memory) (k : Nat) : Except Fault Word :=
  if k < Config.tableSize then
    match t.read k with
    | some v => .ok v
    | none => .error (.tblNoValue k)
  else .error (.tblNoEntry k)

/-- A write of TBL[k] (R11). -/
def writeTbl (t : Memory) (k : Nat) (v : Word) : Except Fault Memory :=
  if k < Config.tableSize then .ok (t.write k v) else .error (.tblNoEntry k)

/-! ## Command errors (R160) -/

/-- `raise CmdError(code)`: the command is dropped and `code` recorded by the first-error rule; nothing else
changes. The block takes no trap, saves no other state and redirects nothing (R168). -/
def cmdError (code : ErrCode) (s : State) : State := setErrcode (recordError code s.errcode) s

/-- CLRERR's clearing of the record, the nearest the block has to a return from an error (R151, R169). -/
def clearError (s : State) : State := setErrcode .noError s

/-! ## Issuing (R80) and starting a build (R111) -/

/-- StartBuild: TSTATE <- Building, progress <- initial (R111). -/
def startBuild (s : State) : State :=
  setProgress (.active s.buildLatency .beforeStep0) (setTState .building s)

/-- PV <- 1, PCMD <- the command's fields, POPND <- OPND (R35, R80). -/
def latch (c : LatchedCmd) (s : State) : State := setPend (some ⟨c, s.opnd⟩) s

/-- A command that does not need the table: dropped as OVERRUN while Building, else it runs at once (R80). -/
def issueDirect (s : State) (run : State → Result) : Result :=
  match s.tstate with
  | .unbuilt => run s
  | .building => .next (cmdError .overrun s)
  | .built => run s

/-- A command that needs the table: latched, with a build started, while Unbuilt; dropped as OVERRUN while
Building; run at once when Built (R80). -/
def issueTable (c : LatchedCmd) (s : State) (run : State → Result) : Result :=
  match s.tstate with
  | .unbuilt => .next (startBuild (latch c s))
  | .building => .next (cmdError .overrun s)
  | .built => run s

/-! ## The update rule (R132) -/

/-- `Upd(a, b)` with the table RAM: t = a XOR zext(b), then (t >> 8) XOR TBL[t[7:0]] (R132). -/
def updTbl (t : Memory) (a : Word) (b : Byte) : Except Fault Word :=
  let x := a ^^^ b.setWidth 32
  match readTbl t (byteOf x 0).toNat with
  | .ok v => .ok ((x >>> 8) ^^^ v)
  | .error e => .error e

/-- The update rule over a list of bytes, first byte first (R134). -/
def foldTbl (t : Memory) (a : Word) : List Byte → Except Fault Word
  | [] => .ok a
  | b :: m =>
    match updTbl t a b with
    | .ok a' => foldTbl t a' m
    | .error e => .error e

/-- Fold bytes into ACC (R133, R134). -/
def foldAcc (m : List Byte) (s : State) : Result :=
  match foldTbl s.tbl s.acc m with
  | .ok a => .next (setAcc a s)
  | .error e => .fault e

/-- RES <- TBL[k] (R117). -/
def loadEntry (k : Nat) (s : State) : Result :=
  match readTbl s.tbl k with
  | .ok v => .next (setRes v s)
  | .error e => .fault e

/-! ## Reset (R190) -/

/-- Every piece of the block's state takes its reset value; the parameter and what the world will still
present are not the block's (log entry 18). -/
def resetBlock (s : State) : State :=
  { State.reset with buildLatency := s.buildLatency, inputs := s.inputs }

end Sys2Proof.Machine
end

