-- ==== Sys2Proof/Machine/Accumulator.lean ====
section
/-! DEFINITION. The streaming accumulator's commands, AINIT, ALOAD, UPDB, UPDW and FINAL
(spec/42_accumulator.md R130 to R135). -/

namespace Sys2Proof.Machine

/-- AINIT: ACC <- 0xFFFFFFFF (R130). -/
def execAinit (s : State) : Result := issueDirect s fun s => .next (setAcc Config.initAcc s)

/-- ALOAD: ACC <- OPND (R131). -/
def execAload (s : State) : Result := issueDirect s fun s => .next (setAcc s.opnd s)

/-- What UPDB b does when TSTATE = Built: ACC <- Upd(ACC, b) (R133). -/
def runUpdb (b : Byte) (s : State) : Result := foldAcc [b] s

/-- UPDB b (R133, issued by R80). -/
def execUpdb (b : Byte) (s : State) : Result := issueTable (.updb b) s (runUpdb b)

/-- What UPDW does when TSTATE = Built: fold bytes 0 to N of the operand, OPND or POPND, into ACC (R134). -/
def runUpdw (n : BitVec 2) (operand : Word) (s : State) : Result :=
  foldAcc (firstBytes (byteCount n) operand) s

/-- UPDW c, with N = c - 1 (R134, issued by R80). -/
def execUpdw (c : Nat) (s : State) : Result :=
  if 1 ≤ c ∧ c ≤ 4 then
    issueTable (.updw (BitVec.ofNat 2 (c - 1))) s (runUpdw (BitVec.ofNat 2 (c - 1)) s.opnd)
  else .refused (.operandOutOfRange "UPDW")

/-- FINAL: RES <- ACC XOR 0xFFFFFFFF; ACC is unchanged (R135). -/
def execFinal (s : State) : Result := issueDirect s fun s => .next (setRes (s.acc ^^^ Config.xorOut) s)

end Sys2Proof.Machine
end

