-- ==== Sys2Proof/Machine/Table.lean ====
section
/-! DEFINITION. The lookup-table commands, TBUILD and TREAD (spec/41_table.md R116, R117). -/

namespace Sys2Proof.Machine

/-- TBUILD: from Unbuilt it starts the build, with nothing latched; when Built it does nothing (R116). -/
def execTbuild (s : State) : Result :=
  issueDirect s fun s =>
    match s.tstate with
    | .unbuilt => .next (startBuild s)
    | .building => .next s
    | .built => .next s

/-- What TREAD k does when TSTATE = Built: RES <- TBL[k] (R117). -/
def runTread (k : Byte) (s : State) : Result := loadEntry k.toNat s

/-- TREAD k (R117, issued by R80). -/
def execTread (k : Nat) (s : State) : Result :=
  if k < Config.tableSize then
    issueTable (.tread (BitVec.ofNat 8 k)) s (runTread (BitVec.ofNat 8 k))
  else .refused (.operandOutOfRange "TREAD")

end Sys2Proof.Machine
end

