-- ==== Sys2Proof/Machine/Constructor.lean ====
section
/-! DEFINITION. The table constructor: its micro-sequence (spec/41_table.md R113), its step (R112) and the
completion step, which runs the pending command (R114). -/

namespace Sys2Proof.Machine

/-- One step of reflected polynomial division: S(c) = (c >> 1) XOR (RPOLY if c[0] = 1 else 0)
(R110, R118). -/
def divisionStep (rp c : Word) : Word := (c >>> 1) ^^^ (if c.getLsbD 0 then rp else 0#32)

/-- What follows the write of TBL[CI + CJ]: the next multiple of 2*CI below 256, else the next CI with
CJ = 0, else the end (R113). -/
def nextPosition (rp cstep : Word) (ci cj : Nat) : Sequencer :=
  if cj + 2 * ci < Config.tableSize then .writing rp cstep ci (cj + 2 * ci)
  else if ci ≤ 1 then .finished
  else .writing rp cstep (ci / 2) 0

/-- One micro-step of R113. Step 0 latches RPOLY, writes TBL[0] and sets CSTEP to 1. The micro-step with
CJ = 0 begins an iteration of CI and first advances CSTEP (log entry 5). -/
def microStep (q : Sequencer) (t : Memory) : Except Fault (Sequencer × Memory) :=
  match q with
  | .beforeStep0 =>
    match writeTbl t 0 0x00000000#32 with
    | .ok t' => .ok (.writing rpoly 1#32 128 0, t')
    | .error e => .error e
  | .writing rp cstep ci cj =>
    let c := if cj = 0 then divisionStep rp cstep else cstep
    match readTbl t cj with
    | .ok v =>
      match writeTbl t (ci + cj) (c ^^^ v) with
      | .ok t' => .ok (nextPosition rp c ci cj, t')
      | .error e => .error e
    | .error e => .error e
  | .finished => .ok (.finished, t)

/-- `n` micro-steps; none is left to take once the sequencer has finished. -/
def runMicro : Nat → Sequencer → Memory → Except Fault (Sequencer × Memory)
  | 0, q, t => .ok (q, t)
  | n + 1, q, t =>
    match microStep q t with
    | .ok (q', t') => runMicro n q' t'
    | .error e => .error e

/-- Execute(PCMD.opc, PCMD.n, PCMD.imm8, POPND) (R114): what the command does when Built, with POPND in
place of OPND. -/
def runPending (p : Pending) (s : State) : Result :=
  match p.pcmd with
  | .tread k => runTread k s
  | .updb b => runUpdb b s
  | .updw n => runUpdw n p.popnd s

/-- The state the pending command runs in: TBL is the finished table, TSTATE <- Built, the progress is idle
(R36), PV <- 0 (R114). -/
def completed (t : Memory) (s : State) : State :=
  setPend none (setProgress .idle (setTState .built (setTbl t s)))

/-- Complete() (R114): the table is finished and published and the pending command runs, in one step. -/
def complete (t : Memory) (s : State) : Result :=
  match s.pend with
  | none => .next (completed t s)
  | some p => runPending p (completed t s)

/-- One constructor step that takes `m` micro-steps, or, if it is the last, all that are left: 256 are enough
(R113 (a)). It is enabled only while Building (R112); with one step left it is the completion step. -/
def constructorStep (m : Nat) (s : State) : Result :=
  match s.tstate, s.progress with
  | .building, .active brem q =>
    if brem ≤ 1 then
      match runMicro Config.tableSize q s.tbl with
      | .ok (_, t) => complete t s
      | .error e => .fault e
    else
      match runMicro m q s.tbl with
      | .ok (q', t) => .next (setProgress (.active (brem - 1) q') (setTbl t s))
      | .error e => .fault e
  | _, _ => .next s

end Sys2Proof.Machine
end

