-- ==== Sys2Proof/Machine/BitReverse.lean ====
section
/-! DEFINITION. The bit-reversal unit's commands, REVBITS and BSWAP (spec/40_bitreverse.md R100, R101). -/

namespace Sys2Proof.Machine

/-- REVBITS: RES <- reverseBits(OPND) (R100). -/
def execRevbits (s : State) : Result :=
  issueDirect s fun s => .next (setRes (reverseBits s.opnd) s)

/-- BSWAP: RES <- reverseByteOrder(OPND) (R101). -/
def execBswap (s : State) : Result :=
  issueDirect s fun s => .next (setRes (reverseByteOrder s.opnd) s)

end Sys2Proof.Machine
end

