-- ==== Sys2Proof/Machine/Control.lean ====
section
/-! DEFINITION. The control commands, NOP and CLRERR (spec/43_control.md R150, R151). -/

namespace Sys2Proof.Machine

/-- NOP: nothing (R150). -/
def execNop (s : State) : Result := issueDirect s fun s => .next s

/-- CLRERR: STATUS.ERRCODE <- 0 (R151). -/
def execClrerr (s : State) : Result := issueDirect s fun s => .next (clearError s)

end Sys2Proof.Machine
end

