-- ==== Sys2Proof/Machine/Dispatch.lean ====
section
/-! DEFINITION. One arm per command: what issuing it does (spec/30_encoding.md R80, R83). -/

namespace Sys2Proof.Machine

def exec (i : Instr) (s : State) : Host.Outcome State Fault Refusal :=
  match i with
  | .nop => Sys2Proof.Machine.execNop s
  | .revbits => Sys2Proof.Machine.execRevbits s
  | .bswap => Sys2Proof.Machine.execBswap s
  | .tbuild => Sys2Proof.Machine.execTbuild s
  | .tread k => Sys2Proof.Machine.execTread k s
  | .ainit => Sys2Proof.Machine.execAinit s
  | .aload => Sys2Proof.Machine.execAload s
  | .updb b => Sys2Proof.Machine.execUpdb b s
  | .updw c => Sys2Proof.Machine.execUpdw c s
  | .final => Sys2Proof.Machine.execFinal s
  | .clrerr => Sys2Proof.Machine.execClrerr s

end Sys2Proof.Machine
end

