-- ==== Sys2Proof/Machine/Bus.lean ====
section
/-! DEFINITION. The register window (spec/20_memory.md R51 to R53), issuing a command word
(spec/30_encoding.md R80), and one clock edge with its priorities (spec/60_exceptions.md R167). -/

namespace Sys2Proof.Machine

/-- The registers of the window (R51). -/
inductive Reg where
  | cmd
  | opnd
  | res
  | acc
  | status
  deriving DecidableEq, Repr

/-- The register at a byte offset, if one stands there: the offsets 0x14, 0x18 and 0x1C are reserved and
those between words name no register (R51). -/
def regAt (off : BitVec 5) : Option Reg :=
  if off = 0x00#5 then some .cmd
  else if off = 0x04#5 then some .opnd
  else if off = 0x08#5 then some .res
  else if off = 0x0C#5 then some .acc
  else if off = 0x10#5 then some .status
  else none

/-- The access column of R51. -/
def Reg.allows (g : Reg) (write : Bool) : Bool :=
  match g with
  | .cmd => write
  | .opnd => true
  | .res => !write
  | .acc => !write
  | .status => !write

/-- The four conditions of R52: a full-word access, aligned, of a listed register, in a direction it
allows. -/
def Request.legal (r : Request) : Bool :=
  decide (r.be = 0xF#4) && decide (r.off.extractLsb' 0 2 = 0#2) &&
    match regAt r.off with
    | some g => g.allows r.write
    | none => false

/-- What a bus read of a register returns; CMD has no storage (R52, R20). -/
def readReg (g : Reg) (s : State) : Option Word :=
  match g with
  | .cmd => none
  | .opnd => some s.opnd
  | .res => some s.res
  | .acc => some s.acc
  | .status => some (statusWord s)

/-- `Issue(v)` (R80): OVERRUN is checked before the word is decoded. -/
def issue (v : Word) (s : State) : Result :=
  match s.tstate with
  | .building => .next (cmdError .overrun s)
  | .unbuilt | .built =>
    match decode v with
    | .command i => exec i s
    | .illegal _ => .next (cmdError .illegal s)

/-- A host-port step (R12, R13): a legal access is performed (R52), any other ends in `raise BusError(off)`
(R53), which is this step's fault outcome. -/
def hostPort (r : Request) (s : State) : Result :=
  if r.legal then
    match regAt r.off, r.write with
    | some .cmd, true => issue r.wdata (respond .written s)
    | some .opnd, true => .next (respond .written (setOpnd r.wdata s))
    | some g, false =>
      match readReg g s with
      | some v => .next (respond (.data v) s)
      | none => .fault (.busError r.off)
    | some .res, true => .fault (.busError r.off)
    | some .acc, true => .fault (.busError r.off)
    | some .status, true => .fault (.busError r.off)
    | none, _ => .fault (.busError r.off)
  else .fault (.busError r.off)

/-- The block answers the bus master: a bus error is the response rsp_err = 1 with no state change, and the
block goes on (R53, R165; log entry 8). -/
def deliver (r : Request) (s : State) : Result :=
  match hostPort r s with
  | .next t => .next t
  | .fault (.busError _) => .next (respond .error s)
  | .fault (.tblNoValue k) => .fault (.tblNoValue k)
  | .fault (.tblNoEntry k) => .fault (.tblNoEntry k)
  | .refused e => .refused e

/-- The access of a cycle, if there is one. -/
def accessPart (c : Cycle) (s : State) : Result :=
  match c.req with
  | none => .next s
  | some r => deliver r s

/-- One rising clk edge in the order of R167: reset first, and then no access is performed; else the
constructor's step `k`, if it takes one in this cycle, before the access. -/
def clockEdgeWith (k : Nat → State → Result) (c : Cycle) (s : State) : Result :=
  if c.rst then .next (resetBlock s)
  else
    match c.construct with
    | none => accessPart c s
    | some m => (k m s).andThen (accessPart c)

/-- A clock edge of the block. -/
def clockEdge (c : Cycle) (s : State) : Result := clockEdgeWith constructorStep c s

/-- A cycle with no input: rst is down, no access is presented, and the constructor goes on if it is
building, with one micro-step (R112's fairness; log entry 2). -/
def Cycle.quiet : Cycle := ⟨false, some 1, none⟩

/-- What the coming clock edge samples. -/
def coming (s : State) : Cycle := s.inputs.headD Cycle.quiet

/-- A write of a full word at a byte offset. -/
def Request.wr (off : BitVec 5) (v : Word) : Request := ⟨true, off, 0xF#4, v⟩

/-- A read of a full word at a byte offset. -/
def Request.rd (off : BitVec 5) : Request := ⟨false, off, 0xF#4, 0#32⟩

/-- A cycle in which one access is presented and nothing else happens. -/
def Cycle.ofRequest (r : Request) : Cycle := ⟨false, none, some r⟩

/-- The cycle that writes a command word to CMD. -/
def Cycle.cmd (v : Word) : Cycle := Cycle.ofRequest (Request.wr 0x00#5 v)

/-- The window offset of a platform address, if the address lies in the window at CRC_BASE (R60; log
entry 13). -/
def windowOffset (addr : Nat) : Option (BitVec 5) :=
  if Config.crcBase ≤ addr ∧ addr < Config.crcBase + Config.windowBytes then
    some (BitVec.ofNat 5 (addr - Config.crcBase))
  else none

/-- The request the platform delivers for an access at a platform address, if the address lies in the window
(R60; log entry 13). -/
def requestAt (addr : Nat) (write : Bool) (be : BitVec 4) (v : Word) : Option Request :=
  (windowOffset addr).map fun off => ⟨write, off, be, v⟩

end Sys2Proof.Machine
end

