-- ==== Sys2Proof/Machine/Step.lean ====
section
/-! DEFINITION. One step: the coming clock edge is taken from the queue and performed (spec/00_scope.md R12,
spec/20_memory.md R61, spec/60_exceptions.md R167; log entry 1). -/

namespace Sys2Proof.Machine

/-- One rising clk edge. -/
def step (s : State) : Host.Outcome State Fault Refusal := clockEdge (coming s) (popInput s)

/-- `s` with the opcode table's word `w` of `nbits` bits presented as the coming CMD write, so that the very
next step issues it (log entry 12). -/
def State.withFetchWord (s : State) (nbits w : Nat) : State :=
  { s with inputs := Cycle.cmd (BitVec.ofNat 32 (w % 2 ^ nbits)) :: s.inputs }

end Sys2Proof.Machine
end

