-- ==== Sys2Proof/Machine/Reference.lean ====
section
/-! DEFINITION. The reference table T (spec/41_table.md R110) and the reference CRC function
(spec/00_scope.md R17), written from the source's algorithm and apart from the constructor's
micro-sequence. -/

namespace Sys2Proof.Machine

/-- One iteration of R110 for bit position `i`: the running value takes one division step, then
T[i + j] = step XOR T[j] for every multiple j of 2*i below 256. -/
def tableIteration (st : Word × List Word) (i : Nat) : Word × List Word :=
  let c := divisionStep rpoly st.1
  (c, (List.range (Config.tableSize / (2 * i))).foldl
    (fun t m => t.set (i + 2 * i * m) (c ^^^ t.getD (2 * i * m) 0#32)) st.2)

/-- T, 256 entries: the running value starts at 1 and entry 0 is zero (R110). Irreducible, so that no tactic
evaluates 256 entries by accident; the kernel still can, and Laws/Table.lean lists them. -/
@[irreducible] def referenceTable : List Word :=
  ([128, 64, 32, 16, 8, 4, 2, 1].foldl tableIteration (1#32, List.replicate Config.tableSize 0#32)).2

/-- T[b] (R110). -/
def tableEntry (b : Byte) : Word := referenceTable.getD b.toNat 0#32

/-- T as the contents of the table RAM (R33). -/
def referenceMemory : Memory := referenceTable.zipIdx.map fun p => (p.2, p.1)

/-- `Upd(a, b)` over the reference table (R17). -/
def upd (a : Word) (b : Byte) : Word :=
  let t := a ^^^ b.setWidth 32
  (t >>> 8) ^^^ tableEntry (byteOf t 0)

/-- `Fold(a, m)`, the source's `checksumUpdate(m, a)` (R17). -/
def fold (a : Word) : List Byte → Word
  | [] => a
  | b :: m => fold (upd a b) m

/-- `CRC32(m)`, the source's `checksumOneShot` (R17). -/
def crc32 (m : List Byte) : Word := fold Config.initAcc m ^^^ Config.xorOut

end Sys2Proof.Machine
end

