-- ==== Sys2Proof/Machine/Abstract.lean ====
section
/-! DEFINITION. The abstract countdown, form (a) of the constructor's progress (spec/10_state.md R36,
spec/41_table.md R115): the machine that keeps only BREM and writes all of TBL <- T at the completion
step. -/

namespace Sys2Proof.Machine

/-- What form (a) keeps of a state: while Building, BREM but neither the sequencer nor the partial table,
which no access can read (R32, R36). -/
def State.abstracted (s : State) : State :=
  match s.tstate, s.progress with
  | .building, .active brem _ => setProgress (.active brem .beforeStep0) (setTbl [] s)
  | _, _ => s

/-- The constructor's step in form (a): a countdown, then TBL <- T, TSTATE <- Built and the pending command
(R114, R115). -/
def abstractConstructorStep (_m : Nat) (s : State) : Result :=
  match s.tstate, s.progress with
  | .building, .active brem q =>
    if brem ≤ 1 then complete referenceMemory s
    else .next (setProgress (.active (brem - 1) q) s)
  | _, _ => .next s

/-- One step of the machine in form (a). -/
def abstractStep (s : State) : Result := clockEdgeWith abstractConstructorStep (coming s) (popInput s)

end Sys2Proof.Machine
end

