-- ==== Sys2Proof/Machine/HostLines.lean ====
section
/-! DEFINITION. The host-program notation and the straight-line pseudo-instructions (spec/30_encoding.md R89,
R90) as the bus accesses they stand for. Host variables, labels and branches are the host's, outside the
block (R37, R89): they are in HostProgram.lean, and `wait` is here only as its polls of STATUS. -/

namespace Sys2Proof.Machine

/-- `<command>`: BusWrite(0x00, its encoding) (R89). A term whose operand is out of range is no row of R88, which
an assembler rejects; here it is the line of `encode`'s fields all the same (DESIGN CHOICE, log entry 21). -/
def cmdLine (i : Instr) : Request := Request.wr 0x00#5 (encode i)

/-- `.cmd v`: BusWrite(0x00, v), legal or not (R89). -/
def rawLine (v : Word) : Request := Request.wr 0x00#5 v

/-- `w.opnd v` (R89). -/
def wOpnd (v : Word) : Request := Request.wr 0x04#5 v

/-- `r.opnd $x` (R89). -/
def rOpnd : Request := Request.rd 0x04#5

/-- `r.res $x` (R89). -/
def rRes : Request := Request.rd 0x08#5

/-- `r.acc $x` (R89). -/
def rAcc : Request := Request.rd 0x0C#5

/-- `r.status $x` (R89). -/
def rStatus : Request := Request.rd 0x10#5

/-- `w.off o, v` (R89). -/
def wOff (o : BitVec 5) (v : Word) : Request := Request.wr o v

/-- `r.off o $x` (R89). -/
def rOff (o : BitVec 5) : Request := Request.rd o

/-- `wait` as `n` passes of its loop, each one read of STATUS (R90). -/
def waitPolls (n : Nat) : List Request := List.replicate n rStatus

/-- `tready` with `n` polls (R90). -/
def tready (n : Nat) : List Request := cmdLine .tbuild :: waitPolls n

/-- `revbits.i v` (R90). -/
def revbitsI (v : Word) : List Request := [wOpnd v, cmdLine .revbits]

/-- `bswap.i v` (R90). -/
def bswapI (v : Word) : List Request := [wOpnd v, cmdLine .bswap]

/-- `aload.i v` (R90). -/
def aloadI (v : Word) : List Request := [wOpnd v, cmdLine .aload]

/-- `updw.i v, c` (R90); for c outside 1 to 4 see `cmdLine` (DESIGN CHOICE, log entry 21). -/
def updwI (v : Word) (c : Nat) : List Request := [wOpnd v, cmdLine (.updw c)]

/-- `crc.bytes b0, …, bk` (R90). -/
def crcBytes (m : List Byte) : List Request := m.map fun b => cmdLine (.updb b)

/-- A character's ASCII code. A character outside 0 to 127 has none (DESIGN CHOICE: R88 and R90 say only "its
ASCII code"; log entry 20). -/
def asciiCode (c : Char) : Option Byte := if c.toNat < 128 then some (BitVec.ofNat 8 c.toNat) else none

/-- `crc.str "s"`: each character's ASCII code, in order (R90). A string with a character that has no ASCII code
is rejected (DESIGN CHOICE: R90 leaves it open; log entry 20). -/
def crcStr (str : String) : Option (List Request) := (str.toList.mapM asciiCode).map crcBytes

/-- `crc.end $x` (R90). -/
def crcEnd : List Request := [cmdLine .final, rRes]

/-- Present a host's accesses, one a cycle, after what is already queued. -/
def present (rs : List Request) (s : State) : State := { s with inputs := s.inputs ++ rs.map Cycle.ofRequest }

end Sys2Proof.Machine
end

