-- ==== Sys2Proof/Machine/HostProgram.lean ====
section
/-! DEFINITION. The host's side of spec/30_encoding.md: the text of a command (R88), host-program lines with
variables, labels and branches (R89), the pseudo-instructions as lines (R90), and a host that runs such a
program on the block. None of it is state of the block (R37, R89; log entry 19). -/

namespace Sys2Proof.Machine

/-! ## The text of a command (R88) -/

/-- A digit of a decimal or hexadecimal number. -/
def digitValue (c : Char) : Option Nat :=
  if '0' ≤ c ∧ c ≤ '9' then some (c.toNat - '0'.toNat)
  else if 'a' ≤ c ∧ c ≤ 'f' then some (c.toNat - 'a'.toNat + 10)
  else if 'A' ≤ c ∧ c ≤ 'F' then some (c.toNat - 'A'.toNat + 10)
  else none

/-- The digits that are left, after digits worth `acc`. -/
def digitsValue (base acc : Nat) : List Char → Option Nat
  | [] => some acc
  | c :: cs =>
    match digitValue c with
    | some d => if d < base then digitsValue base (base * acc + d) cs else none
    | none => none

/-- "Numbers are decimal, or hexadecimal with `0x`" (R88); hexadecimal digits of either case and leading zeros
are taken (DESIGN CHOICE, log entry 22). -/
def numberValue : List Char → Option Nat
  | [] => none
  | ['0', 'x'] => none
  | '0' :: 'x' :: cs => digitsValue 16 0 cs
  | c :: cs => digitsValue 10 0 (c :: cs)

/-- The operand of `updb`: a number, or a character `'c'` meaning its ASCII code (R88); a character that has none
is rejected (DESIGN CHOICE, log entry 20). -/
def byteOperand : List Char → Option Nat
  | ['\'', c, '\''] => (asciiCode c).map BitVec.toNat
  | cs => numberValue cs

/-- The mnemonic of a command's text, up to the first space, and what follows it. -/
def splitMnemonic : List Char → List Char × List Char
  | [] => ([], [])
  | c :: cs => if c = ' ' then ([], cs) else (c :: (splitMnemonic cs).1, (splitMnemonic cs).2)

/-- A command without operand. -/
def plainText (operand : List Char) (i : Instr) : Option Instr :=
  if operand = [] then some i else none

/-- The command a text stands for: a lower-case mnemonic and at most one operand (R88). How spaces may stand is
the model's (DESIGN CHOICE, log entry 22). -/
def commandOfText (text : List Char) : Option Instr :=
  let name := (splitMnemonic text).1
  let operand := (splitMnemonic text).2.dropWhile (· = ' ')
  if name = "nop".toList then plainText operand .nop
  else if name = "revbits".toList then plainText operand .revbits
  else if name = "bswap".toList then plainText operand .bswap
  else if name = "tbuild".toList then plainText operand .tbuild
  else if name = "tread".toList then (numberValue operand).map .tread
  else if name = "ainit".toList then plainText operand .ainit
  else if name = "aload".toList then plainText operand .aload
  else if name = "updb".toList then
    match byteOperand operand with
    | some b => if b < 256 then some (.updb (BitVec.ofNat 8 b)) else none
    | none => none
  else if name = "updw".toList then (numberValue operand).map .updw
  else if name = "final".toList then plainText operand .final
  else if name = "clrerr".toList then plainText operand .clrerr
  else none

/-- The assembler on text: the command's word, or nothing if there is no such command or the operand is out
of range (R88). -/
def assembleText (text : List Char) : Option Word :=
  match commandOfText text with
  | some i => assemble i
  | none => none

/-! ## Host-program lines (R89) -/

/-- A value in a host line: a number or a host variable. -/
inductive HostValue where
  | num (v : Word)
  | var (x : String)
  deriving DecidableEq, Repr

/-- A line of a host program. `.cmd`, `w.opnd` and the commands are writes, `r.opnd` to `r.status` are reads,
at their registers' offsets. -/
inductive HostLine where
  /-- BusWrite(off, v). -/
  | write (off : BitVec 5) (v : HostValue)
  /-- $x <- BusRead(off). -/
  | read (off : BitVec 5) (x : String)
  /-- `L:`. -/
  | label (l : String)
  /-- `bnz $x[i], L`: taken when bit i of $x is 1. -/
  | bnz (x : String) (i : Fin 32) (l : String)
  deriving DecidableEq, Repr

/-- `<command>` (R89); for a term whose operand is out of range, which an assembler rejects, it is the line of
`encode`'s fields all the same (DESIGN CHOICE, log entry 21). -/
def HostLine.command (i : Instr) : HostLine := .write 0x00#5 (.num (encode i))

/-- `wait`, with `l` a fresh label and `x` the variable of the loop (R90). That `l` is fresh is the caller's to
see to (log entry 19). -/
def waitLines (l x : String) : List HostLine := [.label l, .read 0x10#5 x, .bnz x 2 l]

/-- `tready` (R90). -/
def treadyLines (l x : String) : List HostLine := HostLine.command .tbuild :: waitLines l x

/-- `revbits.i v`, `bswap.i v`, `aload.i v` and `updw.i v, c`: OPND is written, then the command issued
(R90); for c outside 1 to 4 see `HostLine.command` (DESIGN CHOICE, log entry 21). -/
def withOperandLines (v : HostValue) (i : Instr) : List HostLine :=
  [.write 0x04#5 v, HostLine.command i]

/-- `crc.bytes b0, …, bk` (R90). -/
def crcBytesLines (m : List Byte) : List HostLine := m.map fun b => HostLine.command (.updb b)

/-- `crc.str "s"` (R90), rejected where a character has no ASCII code (DESIGN CHOICE, log entry 20). -/
def crcStrLines (str : String) : Option (List HostLine) := (str.toList.mapM asciiCode).map crcBytesLines

/-- `crc.end $x` (R90). -/
def crcEndLines (x : String) : List HostLine := [HostLine.command .final, .read 0x08#5 x]

/-! ## A host that runs a program on the block -/

/-- A host: its program, the position of its next line, its variables, newest first, and the block. -/
structure HostMachine where
  lines : List HostLine
  next : Nat
  vars : List (String × Word)
  block : State
  deriving DecidableEq, Repr

/-- Why a host's step answers no next host. -/
inductive HostStop where
  /-- The program has no further line. Safe. -/
  | finished
  /-- A variable is read that no line has set. Safe: the host stops. -/
  | unsetVariable (x : String)
  /-- A branch names a label that no line bears. Safe: the host stops. -/
  | unknownLabel (l : String)
  /-- The block's step did not answer a next state. Safe: the host stops. -/
  | blockStopped
  deriving DecidableEq, Repr

/-- The value of a variable. -/
def lookupVar : List (String × Word) → String → Option Word
  | [], _ => none
  | (y, v) :: vars, x => if x = y then some v else lookupVar vars x

/-- The value of a variable that a line reads. -/
def readVar (vars : List (String × Word)) (x : String) : Except HostStop Word :=
  match lookupVar vars x with
  | some v => .ok v
  | none => .error (.unsetVariable x)

/-- The value a line writes. -/
def HostValue.value (vars : List (String × Word)) : HostValue → Except HostStop Word
  | .num v => .ok v
  | .var x => readVar vars x

/-- The host presents one access in the coming clock edge, in which the constructor steps or not as `m` says
(R61 leaves that free). -/
def HostMachine.access (m : Option Nat) (r : Request) (h : HostMachine) : Except HostStop HostMachine :=
  match step { h.block with inputs := ⟨false, m, some r⟩ :: h.block.inputs } with
  | .next s => .ok { h with next := h.next + 1, block := s }
  | .fault _ => .error .blockStopped
  | .refused _ => .error .blockStopped

/-- $x <- what the block answered; an access that errs returns no value (R53). -/
def HostMachine.store (x : String) (h : HostMachine) : HostMachine :=
  match h.block.rsp with
  | .data v => { h with vars := (x, v) :: h.vars }
  | .silent => h
  | .written => h
  | .error => h

/-- One line of a host program (R89). Labels and branches take no clock edge of the block. A branch goes to the
first line that bears its label, if several do (DESIGN CHOICE: R89 leaves it open; log entry 19). -/
def hostStep (m : Option Nat) (h : HostMachine) : Except HostStop HostMachine :=
  match h.lines[h.next]? with
  | none => .error .finished
  | some (.write off v) =>
    match v.value h.vars with
    | .ok w => h.access m (Request.wr off w)
    | .error e => .error e
  | some (.read off x) =>
    match h.access m (Request.rd off) with
    | .ok h' => .ok (h'.store x)
    | .error e => .error e
  | some (.label _) => .ok { h with next := h.next + 1 }
  | some (.bnz x i l) =>
    match readVar h.vars x with
    | .error e => .error e
    | .ok v =>
      if v.getLsbD i.val then
        match h.lines.findIdx? (· = .label l) with
        | some k => .ok { h with next := k }
        | none => .error (.unknownLabel l)
      else .ok { h with next := h.next + 1 }

/-- A clock edge between two lines, with no access of this host: the constructor goes on (R61). -/
def hostIdle (h : HostMachine) : Except HostStop HostMachine :=
  match step h.block with
  | .next s => .ok { h with block := s }
  | .fault _ => .error .blockStopped
  | .refused _ => .error .blockStopped

/-- `n` lines, with no constructor step in their clock edges. -/
def hostRun : Nat → HostMachine → Except HostStop HostMachine
  | 0, h => .ok h
  | n + 1, h =>
    match hostStep none h with
    | .ok h' => hostRun n h'
    | .error e => .error e

end Sys2Proof.Machine
end

