-- ==== Sys2Proof/Safety.lean ====
section
/-! DEFINITION. What counts as a safe state: the relations between the fields of State that every reachable
state meets (spec/10_state.md R31, R33, R34, R35, R36, spec/41_table.md R113). -/

namespace Sys2Proof.Machine

/-- Issue commands one after another, each on the state the one before it left (R61). -/
def runCommands : List Instr → State → Result
  | [], s => .next s
  | i :: is, s => Result.andThen (exec i s) (runCommands is)

/-- `n` steps, stopping at the first fault or refusal. -/
def runSteps : Nat → State → Result
  | 0, s => .next s
  | n + 1, s => Result.andThen (step s) (runSteps n)

/-- The fields that belong to each value of TSTATE. Unbuilt: no table, no pending command, no progress.
Building: the constructor has 1 to BUILD_LATENCY steps to take, and the partial table is what some number of
micro-steps wrote. Built: the table is T, nothing is pending, no progress. -/
def TableConsistent (s : State) : Prop :=
  match s.tstate with
  | .unbuilt => s.tbl = [] ∧ s.pend = none ∧ s.progress = .idle
  | .building =>
    ∃ brem q k, s.progress = .active brem q ∧ 1 ≤ brem ∧ brem ≤ s.buildLatency ∧
      runMicro k .beforeStep0 [] = .ok (q, s.tbl)
  | .built => s.tbl = referenceMemory ∧ s.pend = none ∧ s.progress = .idle

/-- The invariant of the machine: BUILD_LATENCY is at least 1 (R8) and the table state is consistent. -/
structure Safe (s : State) : Prop where
  latency : 1 ≤ s.buildLatency
  table : TableConsistent s

end Sys2Proof.Machine
end

