-- ==== Sys2Proof/Certificates/Slice0/Obligations.lean ====
section
/-! DEFINITION. The statements for the provers. Each docstring names the rule of spec/ it formalises. -/

open Sys2Proof Sys2Proof.Machine

/-! ## Encoding (spec/30_encoding.md) -/

/-- R83, R88: the eleven words of the opcode map, with operands at their first and last values, decode to the
commands they stand for. -/
def Obligations.DecodeOfSpecWords : Prop :=
  decode 0x00000000#32 = .command .nop ∧ decode 0x01000000#32 = .command .revbits ∧
  decode 0x02000000#32 = .command .bswap ∧ decode 0x03000000#32 = .command .tbuild ∧
  decode 0x04000000#32 = .command (.tread 0) ∧ decode 0x040000FF#32 = .command (.tread 255) ∧
  decode 0x05000000#32 = .command .ainit ∧ decode 0x06000000#32 = .command .aload ∧
  decode 0x07000031#32 = .command (.updb 0x31#8) ∧ decode 0x08000000#32 = .command (.updw 1) ∧
  decode 0x08000300#32 = .command (.updw 4) ∧ decode 0x09000000#32 = .command .final ∧
  decode 0x0A000000#32 = .command .clrerr

/-- Section 6 (R88): the words the assembler makes, and the operands it rejects. -/
def Obligations.AssemblerWords : Prop :=
  assemble .nop = some 0x00000000#32 ∧ assemble .revbits = some 0x01000000#32 ∧
  assemble .bswap = some 0x02000000#32 ∧ assemble .tbuild = some 0x03000000#32 ∧
  assemble .ainit = some 0x05000000#32 ∧ assemble .aload = some 0x06000000#32 ∧
  assemble .final = some 0x09000000#32 ∧ assemble .clrerr = some 0x0A000000#32 ∧
  (∀ k, assemble (.tread k) = if k < 256 then some (0x04000000#32 ||| BitVec.ofNat 32 k) else none) ∧
  (∀ b : Byte, assemble (.updb b) = some (0x07000000#32 ||| b.setWidth 32)) ∧
  (∀ c, assemble (.updw c) =
    if 1 ≤ c ∧ c ≤ 4 then some (0x08000000#32 ||| BitVec.ofNat 32 (c - 1) <<< 8) else none)

/-- R81, R84: decoding the word of a well-formed command gives the command back, with every operand at every
value its encoding admits. -/
def Obligations.DecodeEncodeRoundTrip : Prop :=
  ∀ i : Instr, i.wf = true → decode (encode i) = .command i

/-- R84: each legal word is the word of the one command it decodes to. -/
def Obligations.EncodeDecodeRoundTrip : Prop :=
  ∀ (v : Word) (i : Instr), decode v = .command i → i.wf = true ∧ encode i = v

/-- R84: a decoded command carries the word's fields; the legal words are those that match a row of the
match and mask table, under the row's mnemonic; no word matches two rows; 524 words are legal. -/
def Obligations.LegalWordsAreTheMaskRows : Prop :=
  (∀ v i, decode v = .command i → opcode i = opcField v ∧ nOf i = nField v ∧ imm8Of i = imm8Field v) ∧
  (∀ v i, decode v = .command i → ∃ r ∈ opcodeRows, r.covers v = true ∧ r.mnemonic = i.mnemonic) ∧
  (∀ v, ∀ r ∈ opcodeRows, r.covers v = true → ∃ i, decode v = .command i ∧ i.mnemonic = r.mnemonic) ∧
  (∀ v, ∀ r ∈ opcodeRows, ∀ r' ∈ opcodeRows, r.covers v = true → r'.covers v = true → r = r') ∧
  (∃ ws : List Word, ws.Nodup ∧ ws.length = 524 ∧ ∀ v, (∃ i, decode v = .command i) ↔ v ∈ ws)

/-- R85: a reserved opcode, RSV ≠ 0 or an unused field that is set makes the word illegal; issued while
TSTATE ≠ Building it records ILLEGAL by the first-error rule and changes nothing else. -/
def Obligations.IllegalWordRecordsAndDrops : Prop :=
  ∀ (v : Word) (s : State),
    (0x0B ≤ (opcField v).toNat ∨ rsvField v ≠ 0#14 ∨
      ((opcField v = 0x04#8 ∨ opcField v = 0x07#8) ∧ nField v ≠ 0#2) ∨
      (opcField v = 0x08#8 ∧ imm8Field v ≠ 0#8) ∨
      (opcField v ≠ 0x04#8 ∧ opcField v ≠ 0x07#8 ∧ opcField v ≠ 0x08#8 ∧
        (nField v ≠ 0#2 ∨ imm8Field v ≠ 0#8))) →
    s.tstate ≠ .building →
    issue v s = .next { s with errcode := if s.errcode = .noError then .illegal else s.errcode }

/-! ## The step (spec/20_memory.md, spec/60_exceptions.md R167) -/

/-- R80, R167: a step whose cycle writes the word of a command to CMD is exec of that command, on the state
with the cycle taken from the queue and the write accepted; where the constructor also steps in that cycle,
on the state its step left. -/
def Obligations.StepIssuesDecodedCommand : Prop :=
  (∀ (s : State) (v : Word) (i : Instr), coming s = Cycle.cmd v → s.tstate ≠ .building →
    decode v = .command i → step s = exec i (respond .written (popInput s))) ∧
  (∀ (s u : State) (v : Word) (i : Instr) (m : Nat),
    coming s = ⟨false, some m, some (Request.wr 0x00#5 v)⟩ →
    constructorStep m (popInput s) = .next u → u.tstate ≠ .building →
    decode v = .command i → step s = exec i (respond .written u))

/-- R167: reset comes first and then no access is performed; else a constructor step of the same cycle comes
before the access; a bus error comes before OVERRUN, OVERRUN before ILLEGAL, ILLEGAL before the command. -/
def Obligations.PriorityOrder : Prop :=
  (∀ s, (coming s).rst = true → step s = .next (resetBlock (popInput s))) ∧
  (∀ s m, (coming s).rst = false → (coming s).construct = some m →
    step s = Result.andThen (constructorStep m (popInput s)) (accessPart (coming s))) ∧
  (∀ s, (coming s).rst = false → (coming s).construct = none → step s = accessPart (coming s) (popInput s)) ∧
  (∀ r s, r.legal = false → hostPort r s = .fault (.busError r.off)) ∧
  (∀ v s, s.tstate = .building → hostPort (Request.wr 0x00#5 v) s =
    .next { s with rsp := .written, errcode := if s.errcode = .noError then .overrun else s.errcode }) ∧
  (∀ v s why, s.tstate ≠ .building → decode v = .illegal why → hostPort (Request.wr 0x00#5 v) s =
    .next { s with rsp := .written, errcode := if s.errcode = .noError then .illegal else s.errcode }) ∧
  (∀ v s i, s.tstate ≠ .building → decode v = .command i →
    hostPort (Request.wr 0x00#5 v) s = exec i (respond .written s))

/-- R52: which accesses are legal, and what each legal one does. -/
def Obligations.LegalAccessesArePerformed : Prop :=
  (∀ r : Request, r.legal = true ↔
    r.be = 0xF#4 ∧
      ((r.write = true ∧ (r.off = 0x00#5 ∨ r.off = 0x04#5)) ∨
        (r.write = false ∧ (r.off = 0x04#5 ∨ r.off = 0x08#5 ∨ r.off = 0x0C#5 ∨ r.off = 0x10#5)))) ∧
  (∀ v s, hostPort ⟨true, 0x00#5, 0xF#4, v⟩ s = issue v { s with rsp := .written }) ∧
  (∀ v s, hostPort ⟨true, 0x04#5, 0xF#4, v⟩ s = .next { s with opnd := v, rsp := .written }) ∧
  (∀ v s, hostPort ⟨false, 0x04#5, 0xF#4, v⟩ s = .next { s with rsp := .data s.opnd }) ∧
  (∀ v s, hostPort ⟨false, 0x08#5, 0xF#4, v⟩ s = .next { s with rsp := .data s.res }) ∧
  (∀ v s, hostPort ⟨false, 0x0C#5, 0xF#4, v⟩ s = .next { s with rsp := .data s.acc }) ∧
  (∀ v s, hostPort ⟨false, 0x10#5, 0xF#4, v⟩ s = .next { s with rsp := .data (statusWord s) })

/-- R53: an illegal access is the fault outcome BusError of the host-port step; the step of the machine
answers rsp_err = 1, without a value, and changes nothing else. -/
def Obligations.BusErrorChangesNothing : Prop :=
  ∀ (r : Request) (s : State), r.legal = false →
    hostPort r s = .fault (.busError r.off) ∧
    (coming s = Cycle.ofRequest r → step s = .next { s with inputs := s.inputs.tail, rsp := .error })

/-- R162: a CMD write while TSTATE = Building is dropped whatever the word, with OVERRUN recorded by the
first-error rule; the build and the pending command are unaffected, and the access itself is accepted
(R160). A write to OPND while Building is legal and is not OVERRUN. The clauses on the input queue and the
response are the model's form of the ports (log entries 1 and 9). -/
def Obligations.OverrunDropsAnyWord : Prop :=
  ∀ (s : State) (v : Word), s.tstate = .building →
    (coming s = Cycle.cmd v → step s = .next { s with
      inputs := s.inputs.tail, rsp := .written,
      errcode := if s.errcode = .noError then .overrun else s.errcode }) ∧
    (coming s = Cycle.ofRequest (Request.wr 0x04#5 v) → step s = .next { s with
      inputs := s.inputs.tail, rsp := .written, opnd := v })

/-- R190: what a cycle with rst = 1 leaves, whatever else the cycle carries: every register at its reset
value, a build abandoned, the access discarded and not answered. -/
def Obligations.ResetCycleClearsTheBlock : Prop :=
  ∀ s : State, (coming s).rst = true →
    ∃ t, step s = .next t ∧ t.opnd = 0x00000000#32 ∧ t.res = 0x00000000#32 ∧ t.acc = 0xFFFFFFFF#32 ∧
      t.tstate = .unbuilt ∧ busy t = false ∧ pv t = false ∧ t.errcode = .noError ∧
      statusWord t = 0x00000000#32 ∧ t.pend = none ∧ t.progress = .idle ∧ t.tbl = [] ∧
      t.rsp = .silent ∧ t.inputs = s.inputs.tail

/-- R20: the reset values of the state after power-on reset, and the invariant holds there. -/
def Obligations.ResetStateIsSafe : Prop :=
  State.reset.opnd = 0x00000000#32 ∧ State.reset.res = 0x00000000#32 ∧ State.reset.acc = 0xFFFFFFFF#32 ∧
  statusWord State.reset = 0x00000000#32 ∧ pv State.reset = false ∧ State.reset.progress = .idle ∧
  State.reset.tbl.wf = true ∧ Safe State.reset

/-- R8, R60 (20_memory.md section 4): CRC_BASE is a multiple of 32, and the window is the 32 bytes from it,
whatever CRC_BASE is. -/
def Obligations.WindowIsThirtyTwoBytes : Prop :=
  Config.crcBase % 32 = 0 ∧
  (∀ off : BitVec 5, windowOffset (Config.crcBase + off.toNat) = some off) ∧
  (∀ addr, (addr < Config.crcBase ∨ Config.crcBase + 32 ≤ addr) → windowOffset addr = none)

/-! ## The commands -/

/-- R162 as each command's section states it: a command issued while Building is dropped as OVERRUN. -/
def DroppedWhileBuilding (i : Instr) : Prop :=
  ∀ s : State, s.tstate = .building →
    exec i s = .next { s with errcode := if s.errcode = .noError then .overrun else s.errcode }

/-- R80: a command that needs the table, issued while Unbuilt, is latched with its operand and starts a
build. -/
def LatchedWhileUnbuilt (i : Instr) (p : LatchedCmd) : Prop :=
  ∀ s : State, s.tstate = .unbuilt →
    exec i s = .next { s with
      tstate := .building, progress := .active s.buildLatency .beforeStep0, pend := some ⟨p, s.opnd⟩ }

/-- R150: NOP is the word 0; it changes nothing, and any other word with OPC = 0 is illegal. -/
def Obligations.NopChangesNothing : Prop :=
  decode 0x00000000#32 = .command .nop ∧
  (∀ s : State, s.tstate ≠ .building → exec .nop s = .next s) ∧
  DroppedWhileBuilding .nop ∧
  (∀ v : Word, opcField v = 0x00#8 → v ≠ 0x00000000#32 → ∃ why, decode v = .illegal why)

/-- R100: REVBITS puts into RES the word whose bit i is OPND's bit 31 - i; nothing else changes; the
transform is its own inverse. -/
def Obligations.RevbitsReversesOpnd : Prop :=
  decode 0x01000000#32 = .command .revbits ∧
  (∀ s : State, s.tstate ≠ .building →
    ∃ r : Word, (∀ i, i < 32 → r.getLsbD i = s.opnd.getLsbD (31 - i)) ∧
      exec .revbits s = .next { s with res := r }) ∧
  DroppedWhileBuilding .revbits ∧
  (∀ x : Word, reverseBits (reverseBits x) = x)

/-- R101: BSWAP puts OPND with its four bytes in reverse order into RES; nothing else changes; the transform
is its own inverse. -/
def Obligations.BswapReversesByteOrder : Prop :=
  decode 0x02000000#32 = .command .bswap ∧
  (∀ s : State, s.tstate ≠ .building →
    exec .bswap s = .next { s with
      res := s.opnd.extractLsb' 0 8 ++ s.opnd.extractLsb' 8 8 ++ s.opnd.extractLsb' 16 8
        ++ s.opnd.extractLsb' 24 8 }) ∧
  DroppedWhileBuilding .bswap ∧
  (∀ x : Word, reverseByteOrder (reverseByteOrder x) = x)

/-- R116: TBUILD starts the build from Unbuilt, with PV unchanged, and does nothing when Built. -/
def Obligations.TbuildStartsTheBuildOnce : Prop :=
  decode 0x03000000#32 = .command .tbuild ∧
  (∀ s : State, s.tstate = .unbuilt →
    exec .tbuild s = .next { s with
      tstate := .building, progress := .active s.buildLatency .beforeStep0 }) ∧
  (∀ s : State, s.tstate = .built → exec .tbuild s = .next s) ∧
  DroppedWhileBuilding .tbuild ∧
  (∀ s t : State, s.tstate = .unbuilt → s.pend = none → s.errcode = .noError →
    exec .tbuild s = .next t → statusWord t = 0x00000005#32)

/-- R117 (41_table.md section 3): TREAD k puts TBL[k] into RES when Built; issued while Unbuilt it is
latched and starts a build. -/
def Obligations.TreadReadsOneEntry : Prop :=
  ∀ k, k < 256 →
    decode (0x04000000#32 ||| BitVec.ofNat 32 k) = .command (.tread k) ∧
    (∀ (s : State) (v : Word), s.tstate = .built → s.tbl.read k = some v →
      exec (.tread k) s = .next { s with res := v }) ∧
    LatchedWhileUnbuilt (.tread k) (.tread (BitVec.ofNat 8 k)) ∧
    DroppedWhileBuilding (.tread k)

/-- R130: AINIT sets ACC to 0xFFFFFFFF and changes nothing else; it starts no build. -/
def Obligations.AinitCreatesTheAccumulator : Prop :=
  decode 0x05000000#32 = .command .ainit ∧
  (∀ s : State, s.tstate ≠ .building → exec .ainit s = .next { s with acc := 0xFFFFFFFF#32 }) ∧
  DroppedWhileBuilding .ainit

/-- R131 (42_accumulator.md section 1): ALOAD copies OPND, whatever it holds, into ACC and changes nothing
else. -/
def Obligations.AloadLoadsOpnd : Prop :=
  decode 0x06000000#32 = .command .aload ∧
  (∀ s : State, s.tstate ≠ .building → exec .aload s = .next { s with acc := s.opnd }) ∧
  DroppedWhileBuilding .aload

/-- R132, R133: UPDB b with t = ACC XOR b sets ACC to (t >> 8) XOR TBL[t[7:0]] when Built and changes nothing
else; issued while Unbuilt it is latched and starts a build. -/
def Obligations.UpdbFoldsOneByte : Prop :=
  ∀ b : Byte,
    decode (0x07000000#32 ||| b.setWidth 32) = .command (.updb b) ∧
    (∀ (s : State) (v : Word), s.tstate = .built →
      s.tbl.read ((s.acc ^^^ b.setWidth 32) &&& 0xFF#32).toNat = some v →
      exec (.updb b) s = .next { s with acc := ((s.acc ^^^ b.setWidth 32) >>> 8) ^^^ v }) ∧
    LatchedWhileUnbuilt (.updb b) (.updb b) ∧
    DroppedWhileBuilding (.updb b)

/-- R134, R55: when Built, UPDW c is the c UPDBs of OPND's bytes 0 to c-1 in that order, so the bytes above
do not matter; issued while Unbuilt it is latched with OPND and starts a build. -/
def Obligations.UpdwIsUpdbOfItsBytes : Prop :=
  ∀ c, 1 ≤ c → c ≤ 4 →
    decode (0x08000000#32 ||| BitVec.ofNat 32 (c - 1) <<< 8) = .command (.updw c) ∧
    (∀ s : State, s.tstate = .built →
      exec (.updw c) s = runCommands ((List.range c).map fun k => .updb (s.opnd.extractLsb' (8 * k) 8)) s) ∧
    LatchedWhileUnbuilt (.updw c) (.updw (BitVec.ofNat 2 (c - 1))) ∧
    DroppedWhileBuilding (.updw c)

/-- R135: FINAL puts ACC XOR 0xFFFFFFFF into RES; ACC keeps its value, nothing else changes, and it starts no
build. -/
def Obligations.FinalComplementsAcc : Prop :=
  decode 0x09000000#32 = .command .final ∧
  (∀ s : State, s.tstate ≠ .building → exec .final s = .next { s with res := s.acc ^^^ 0xFFFFFFFF#32 }) ∧
  DroppedWhileBuilding .final

/-- R151: CLRERR clears ERRCODE and changes nothing else; while Building it is itself dropped. -/
def Obligations.ClrerrClearsTheRecord : Prop :=
  decode 0x0A000000#32 = .command .clrerr ∧
  (∀ s : State, s.tstate ≠ .building → exec .clrerr s = .next { s with errcode := .noError }) ∧
  DroppedWhileBuilding .clrerr

/-- R132 to R134, R33: in a safe Built state every command that needs the table completes, with the values
of the reference table and of the reference function. -/
def Obligations.TableCommandsCompleteWhenBuilt : Prop :=
  ∀ s : State, Safe s → s.tstate = .built →
    (∀ k, k < 256 → exec (.tread k) s = .next { s with res := tableEntry (BitVec.ofNat 8 k) }) ∧
    (∀ b, exec (.updb b) s = .next { s with acc := upd s.acc b }) ∧
    (∀ c, 1 ≤ c → c ≤ 4 → exec (.updw c) s = .next { s with acc := fold s.acc (firstBytes c s.opnd) })

/-- R88: a term whose operand no command word encodes is refused by name, and only such a term. -/
def Obligations.OnlyIllFormedTermsAreRefused : Prop :=
  ∀ (i : Instr) (s : State), (∃ e, exec i s = .refused e) ↔ i.wf = false

/-- R21, R22, R23, R24: what a command leaves unchanged. No command writes OPND or TBL; only AINIT, ALOAD,
UPDB and UPDW change ACC; only REVBITS, BSWAP, TREAD and FINAL change RES; the ports and the parameter are
never touched; TSTATE, the latch and the progress change together, from Unbuilt only. -/
def Obligations.CommandFrame : Prop :=
  ∀ (i : Instr) (s t : State), exec i s = .next t →
    t.opnd = s.opnd ∧ t.tbl = s.tbl ∧ (∀ k, t.tbl.read k = s.tbl.read k) ∧
    t.inputs = s.inputs ∧ t.rsp = s.rsp ∧ t.buildLatency = s.buildLatency ∧
    (t.acc ≠ s.acc → s.tstate ≠ .building ∧
      (i = .ainit ∨ i = .aload ∨ (∃ b, i = .updb b) ∨ ∃ c, i = .updw c)) ∧
    (t.res ≠ s.res → s.tstate ≠ .building ∧
      (i = .revbits ∨ i = .bswap ∨ (∃ k, i = .tread k) ∨ i = .final)) ∧
    (t.tstate ≠ s.tstate → s.tstate = .unbuilt ∧ t.tstate = .building ∧ t.acc = s.acc ∧ t.res = s.res ∧
      (i = .tbuild ∨ (∃ k, i = .tread k) ∨ (∃ b, i = .updb b) ∨ ∃ c, i = .updw c)) ∧
    (t.tstate = s.tstate → t.pend = s.pend ∧ t.progress = s.progress) ∧
    (t.errcode ≠ s.errcode → s.tstate = .building ∨ i = .clrerr)

/-! ## STATUS and the error record -/

/-- R26: the layout of STATUS, field by field. -/
def Obligations.StatusLayout : Prop :=
  ∀ s : State,
    ((statusWord s).extractLsb' 0 2 =
      match s.tstate with
      | .unbuilt => 0#2
      | .building => 1#2
      | .built => 2#2) ∧
    ((statusWord s).getLsbD 2 = true ↔ s.tstate = .building) ∧
    ((statusWord s).getLsbD 3 = true ↔ s.pend ≠ none) ∧
    (statusWord s).extractLsb' 4 4 = 0#4 ∧
    ((statusWord s).extractLsb' 8 4 =
      match s.errcode with
      | .noError => 0#4
      | .illegal => 1#4
      | .overrun => 2#4) ∧
    (statusWord s).extractLsb' 12 20 = 0#20

/-- R31: the STATUS values a safe state can show: the four of the table, with ERRCODE 0, 1 or 2
independently. PEND = 1 implies Building. -/
def Obligations.ReachableStatusValues : Prop :=
  ∀ s : State, Safe s →
    ∃ low : Word, statusWord s = low ||| ((s.errcode.bits.setWidth 32) <<< 8) ∧
      s.errcode.bits.toNat < 3 ∧
      ((s.tstate = .unbuilt ∧ s.pend = none ∧ low = 0x0#32) ∨
        (s.tstate = .building ∧ s.pend = none ∧ low = 0x5#32) ∨
        (s.tstate = .building ∧ s.pend ≠ none ∧ low = 0xD#32) ∨
        (s.tstate = .built ∧ s.pend = none ∧ low = 0x2#32))

/-- R30: a command error with code c sets ERRCODE to c if it was 0 and leaves it otherwise; the codes are 1
and 2; a bus error never changes it. Over any step ERRCODE changes only by reset, by the first error of a CMD
write while it was 0, or by CLRERR. -/
def Obligations.ErrcodeKeepsTheFirstError : Prop :=
  (∀ (c : ErrCode) (s : State),
    (s.errcode = .noError → (cmdError c s).errcode = c) ∧
    (s.errcode ≠ .noError → (cmdError c s).errcode = s.errcode)) ∧
  ErrCode.noError.bits = 0#4 ∧ ErrCode.illegal.bits = 1#4 ∧ ErrCode.overrun.bits = 2#4 ∧
  (∀ (r : Request) (s t : State), r.legal = false → deliver r s = .next t → t.errcode = s.errcode) ∧
  (∀ s t : State, step s = .next t → t.errcode ≠ s.errcode →
    (coming s).rst = true ∨
    ∃ v, (coming s).req = some (Request.wr 0x00#5 v) ∧
      ((v = 0x0A000000#32 ∧ t.errcode = .noError) ∨
        (s.errcode = .noError ∧ (t.errcode = .illegal ∨ t.errcode = .overrun))))

/-! ## The table state and the build -/

/-- R27: TSTATE makes exactly three kinds of transition. A reset cycle gives Unbuilt; a CMD write that starts a
build takes Unbuilt to Building, whether or not the constructor is scheduled in its cycle; the constructor's
completion step takes Building to Built, whatever access shares its cycle. No other transition exists, and the
value 3 is never produced. The cycles are the model's form of the ports (log entry 1); `Safe`, a premise of the
completion clause, rests on log entry 6. -/
def Obligations.TableStateTransitions : Prop :=
  (∀ s : State, s.tstate.bits ≠ 3#2) ∧
  (∀ s : State, (coming s).rst = true → ∃ t, step s = .next t ∧ t.tstate = .unbuilt) ∧
  (∀ (s : State) (v : Word) (i : Instr), s.tstate = .unbuilt → (coming s).rst = false →
    (coming s).req = some (Request.wr 0x00#5 v) → decode v = .command i →
    (i = .tbuild ∨ (∃ k, i = .tread k) ∨ (∃ b, i = .updb b) ∨ ∃ c, i = .updw c) →
    ∃ t, step s = .next t ∧ t.tstate = .building) ∧
  (∀ (s : State) (m : Nat) (q : Sequencer), Safe s → s.tstate = .building → s.progress = .active 1 q →
    (coming s).rst = false → (coming s).construct = some m → ∃ t, step s = .next t ∧ t.tstate = .built) ∧
  ∀ s t : State, step s = .next t → t.tstate ≠ s.tstate →
    ((coming s).rst = true ∧ t.tstate = .unbuilt) ∨
    (s.tstate = .unbuilt ∧ t.tstate = .building ∧
      ∃ v i, (coming s).req = some (Request.wr 0x00#5 v) ∧ decode v = .command i ∧
        (i = .tbuild ∨ (∃ k, i = .tread k) ∨ (∃ b, i = .updb b) ∨ ∃ c, i = .updw c)) ∨
    (s.tstate = .building ∧ t.tstate = .built ∧ (coming s).construct ≠ none ∧
      ∃ brem q, s.progress = .active brem q ∧ brem ≤ 1)

/-- R33, R195: once Built, and until reset, TBL does not change, BUSY stays 0 and nothing is pending that was
not before. -/
def Obligations.BuiltTableIsImmutable : Prop :=
  ∀ s t : State, s.tstate = .built → (coming s).rst = false → step s = .next t →
    t.tstate = .built ∧ t.tbl = s.tbl ∧ (∀ k, t.tbl.read k = s.tbl.read k) ∧ busy t = false ∧
    t.pend = s.pend

/-- R22: OPND changes only by reset or by a bus write to OPND, which replaces all 32 bits, in any TSTATE; a
bus read returns it; no command writes it. A constructor step, the completion step with its pending command
included, neither reads nor writes OPND, so a write to OPND during a build does not affect the pending
command (R35). The clauses on the input queue and the response are the model's form of the ports (log entries
1 and 9). -/
def Obligations.OpndChangesOnlyByBusWrite : Prop :=
  (∀ s t : State, step s = .next t → t.opnd ≠ s.opnd →
    (coming s).rst = true ∨ (coming s).req = some (Request.wr 0x04#5 t.opnd)) ∧
  (∀ (s : State) (v : Word), coming s = Cycle.ofRequest (Request.wr 0x04#5 v) →
    step s = .next { s with opnd := v, inputs := s.inputs.tail, rsp := .written }) ∧
  (∀ s : State, coming s = Cycle.ofRequest (Request.rd 0x04#5) →
    step s = .next { s with inputs := s.inputs.tail, rsp := .data s.opnd }) ∧
  (∀ (i : Instr) (s t : State), exec i s = .next t → t.opnd = s.opnd) ∧
  (∀ (m : Nat) (s : State) (w : Word),
    constructorStep m (setOpnd w s) = Result.andThen (constructorStep m s) fun t => .next (setOpnd w t))

/-- R196, R32: while a build goes on, no step changes RES or ACC or the pending command. -/
def Obligations.NothingVisibleDuringBuild : Prop :=
  ∀ s t : State, s.tstate = .building → t.tstate = .building → step s = .next t →
    t.acc = s.acc ∧ t.res = s.res ∧ t.pend = s.pend

/-- R113: after k micro-steps exactly k entries are written, for k up to 256, so each micro-step writes an
entry no earlier one wrote and reads one that is written; the first writes are those of the spec's list; at
the end the table is the reference table. -/
def Obligations.MicroSequenceBuildsReferenceTable : Prop :=
  (∀ k, k ≤ 256 → ∃ q t, runMicro k .beforeStep0 [] = .ok (q, t) ∧ t.length = k ∧ t.wf = true) ∧
  (∃ q t, runMicro 9 .beforeStep0 [] = .ok (q, t) ∧
    t.map Prod.fst = [0, 16, 32, 64, 96, 128, 160, 192, 224]) ∧
  runMicro 256 .beforeStep0 [] = .ok (.finished, referenceMemory)

/-- R112, R36, R113: a constructor step that is not the last counts BREM down, takes its micro-steps on the
sequencer and the partial table, and does nothing else, however many micro-steps it takes (log entry 4). -/
def Obligations.ConstructorStepCountsDown : Prop :=
  ∀ (m : Nat) (s : State) (brem : Nat) (q : Sequencer), Safe s → s.tstate = .building →
    s.progress = .active (brem + 2) q →
    ∃ q' t', runMicro m q s.tbl = .ok (q', t') ∧
      constructorStep m s = .next { s with progress := .active (brem + 1) q', tbl := t' }

/-- R114: the completion step publishes the reference table, sets TSTATE to Built and runs the pending
command with POPND, all in one step. -/
def Obligations.CompletionRunsThePendingCommand : Prop :=
  ∀ (m : Nat) (s : State) (q : Sequencer), Safe s → s.tstate = .building → s.progress = .active 1 q →
    (s.pend = none → constructorStep m s =
      .next { s with tbl := referenceMemory, tstate := .built, progress := .idle }) ∧
    (∀ k w, s.pend = some ⟨.tread k, w⟩ → constructorStep m s =
      .next { s with
        tbl := referenceMemory, tstate := .built, progress := .idle, pend := none, res := tableEntry k }) ∧
    (∀ b w, s.pend = some ⟨.updb b, w⟩ → constructorStep m s =
      .next { s with
        tbl := referenceMemory, tstate := .built, progress := .idle, pend := none, acc := upd s.acc b }) ∧
    (∀ n w, s.pend = some ⟨.updw n, w⟩ → constructorStep m s =
      .next { s with
        tbl := referenceMemory, tstate := .built, progress := .idle, pend := none
        acc := fold s.acc (firstBytes (n.toNat + 1) w) })

/-- R112: a build that is started completes. From a safe Building state whose queue holds no reset, whatever
else the queue holds, TSTATE is Built after at most as many steps as the queue is long plus BUILD_LATENCY.
That the constructor goes on while the queue is empty is the model's fairness (log entry 2). -/
def Obligations.BuildCompletes : Prop :=
  ∀ s : State, Safe s → s.tstate = .building → (∀ c ∈ s.inputs, c.rst = false) →
    ∃ n t, n ≤ s.inputs.length + s.buildLatency ∧ runSteps n s = .next t ∧ t.tstate = .built

/-- R13, R31, R33, R165: from every state that meets the invariant, whatever access, reset or constructor
step comes, the step answers a next state, and the invariant holds there: no step faults, is refused or
hangs. -/
def Obligations.StepKeepsTheInvariant : Prop :=
  ∀ s : State, Safe s → ∃ t, step s = .next t ∧ Safe t

/-- R32, R34: the table RAM keeps its canonical form over every step, from every state that has it. -/
def Obligations.StepKeepsTableCanonical : Prop :=
  ∀ s t : State, s.tbl.wf = true → step s = .next t → t.tbl.wf = true

/-- R115: the abstract countdown, which keeps only BREM and writes all of TBL at the completion step, answers
every step as the concrete micro-sequence does, STATUS and read data included, for every number of
micro-steps a constructor step may take. -/
def Obligations.AbstractCountdownRefines : Prop :=
  ∀ s : State, Safe s →
    ∃ t, step s = .next t ∧ abstractStep s.abstracted = .next t.abstracted ∧
      t.abstracted.rsp = t.rsp ∧ statusWord t.abstracted = statusWord t ∧
      t.abstracted.res = t.res ∧ t.abstracted.acc = t.acc ∧ t.abstracted.opnd = t.opnd

/-! ## The table and the CRC function -/

/-- R118: the closed form, linearity, the running values and the zero entry of the reference table. -/
def Obligations.ReferenceTableProperties : Prop :=
  (∀ n : Byte, tableEntry n = (divisionStep rpoly)^[8] (n.setWidth 32)) ∧
  (∀ a b : Byte, tableEntry (a ^^^ b) = tableEntry a ^^^ tableEntry b) ∧
  (∀ k, k < 8 → tableEntry (0x80#8 >>> k) =
      (([128, 64, 32, 16, 8, 4, 2, 1].take (k + 1)).foldl tableIteration
        (1#32, List.replicate 256 0#32)).1) ∧
  [0x80#8, 0x40#8, 0x20#8, 0x10#8, 0x08#8, 0x04#8, 0x02#8, 0x01#8].map tableEntry =
    [0xEDB88320#32, 0x76DC4190#32, 0x3B6E20C8#32, 0x1DB71064#32, 0x0EDB8832#32, 0x076DC419#32,
      0xEE0E612C#32, 0x77073096#32] ∧
  (∀ n : Byte, tableEntry n = 0#32 ↔ n = 0#8)

/-- R102, R33: RPOLY is the bit-reversed polynomial, and the invariants of the built table. -/
def Obligations.BuiltTableInvariants : Prop :=
  rpoly = 0xEDB88320#32 ∧
  ∀ s : State, Safe s → s.tstate = .built →
    (∀ b : Byte, s.tbl.read b.toNat = some (tableEntry b)) ∧
    s.tbl.read 0 = some 0x00000000#32 ∧ s.tbl.read 128 = some rpoly ∧
    s.tbl.read 255 = some 0x2D02EF8D#32

/-- R131 (42_accumulator.md section 1, derived there): for a fixed byte the update is injective on ACC, and
from any accumulator some 4-byte input reaches every 32-bit value. -/
def Obligations.EveryAccumulatorIsReachable : Prop :=
  (∀ (b : Byte) (x y : Word), upd x b = upd y b → x = y) ∧
  (∀ a w : Word, ∃ b0 b1 b2 b3 : Byte, fold a [b0, b1, b2, b3] = w)

/-- R139 (42_accumulator.md section 2, from general knowledge there): two inputs of equal length that differ
in exactly one bit have different checksums. -/
def Obligations.SingleBitChangesAreDetected : Prop :=
  ∀ (m m' : List Byte) (b : Byte) (j : Nat), j < 8 →
    crc32 (m ++ (b ^^^ (1#8 <<< j)) :: m') ≠ crc32 (m ++ b :: m')

/-- R136, R17: presented through the bus to a safe Built block, `ainit; updb m_0; …; final; r.res` puts
CRC32(m) into RES and returns it, for every byte sequence m. -/
def Obligations.OneShotComputesCrc32 : Prop :=
  ∀ (m : List Byte) (s : State), Safe s → s.tstate = .built →
    runSteps (m.length + 3)
        { s with inputs := (cmdLine .ainit :: (crcBytes m ++ crcEnd)).map Cycle.ofRequest } =
      .next { s with
        acc := fold 0xFFFFFFFF#32 m, res := crc32 m, inputs := [], rsp := .data (crc32 m) }

/-- R137, R25: a stream saved by a read of ACC after the bytes of m, and resumed through OPND and ALOAD with the
value that read answered, in whatever safe Built state the block then is, continues as if it had not been
interrupted: the read of ACC after the bytes of m' answers what folding all of them gives. The accesses are
presented through the input queue (log entry 1). -/
def Obligations.SavedStreamResumes : Prop :=
  ∀ (m m' : List Byte) (s u : State), Safe s → s.tstate = .built → Safe u → u.tstate = .built →
    ∃ v, v = fold s.acc m ∧
      runSteps (m.length + 1) { s with inputs := (crcBytes m ++ [rAcc]).map Cycle.ofRequest } =
        .next { s with acc := v, inputs := [], rsp := .data v } ∧
      runSteps (m'.length + 3)
          { u with inputs := (aloadI v ++ crcBytes m' ++ [rAcc]).map Cycle.ofRequest } =
        .next { u with
          opnd := v, acc := fold s.acc (m ++ m'), inputs := [], rsp := .data (fold s.acc (m ++ m')) }

/-- R138: `ainit; final` gives RES = 0x00000000, the checksum of the empty input, and starts no build. -/
def Obligations.EmptyInputIsZero : Prop :=
  crc32 [] = 0x00000000#32 ∧
  ∀ s : State, s.tstate ≠ .building →
    runCommands [.ainit, .final] s = .next { s with acc := 0xFFFFFFFF#32, res := 0x00000000#32 }

/-- R57 (20_memory.md section 2): a host serialises a word least significant byte first. -/
def Obligations.SerializedLeastSignificantFirst : Prop :=
  (∀ w : Word, serialize w =
    [w.extractLsb' 0 8, w.extractLsb' 8 8, w.extractLsb' 16 8, w.extractLsb' 24 8]) ∧
  serialize 0xCBF43926#32 = [0x26#8, 0x39#8, 0xF4#8, 0xCB#8]

/-! ## The host's side (spec/30_encoding.md section 6) -/

/-- R88 (30_encoding.md section 6): the words of a command's text, and texts that are rejected. -/
def Obligations.AssemblerText : Prop :=
  assembleText "nop".toList = some 0x00000000#32 ∧
  assembleText "revbits".toList = some 0x01000000#32 ∧
  assembleText "bswap".toList = some 0x02000000#32 ∧
  assembleText "tbuild".toList = some 0x03000000#32 ∧
  assembleText "tread 128".toList = some 0x04000080#32 ∧
  assembleText "tread 0xFF".toList = some 0x040000FF#32 ∧
  assembleText "ainit".toList = some 0x05000000#32 ∧
  assembleText "aload".toList = some 0x06000000#32 ∧
  assembleText "updb '1'".toList = some 0x07000031#32 ∧
  assembleText "updb 255".toList = some 0x070000FF#32 ∧
  assembleText "updw 4".toList = some 0x08000300#32 ∧
  assembleText "final".toList = some 0x09000000#32 ∧
  assembleText "clrerr".toList = some 0x0A000000#32 ∧
  assembleText "tread 256".toList = none ∧ assembleText "updb 0x100".toList = none ∧
  assembleText "updw 0".toList = none ∧ assembleText "updw 5".toList = none ∧
  assembleText "nop 1".toList = none

/-- R90 (30_encoding.md section 6): one pass of `wait` reads STATUS into its variable and changes nothing of
the block; it is over exactly when BUSY = 0, and else begins again. -/
def Obligations.WaitLoopsWhileBusy : Prop :=
  ∀ (l x : String) (vars : List (String × Word)) (s : State),
    hostRun 3 ⟨waitLines l x, 0, vars, s⟩ =
      .ok ⟨waitLines l x, if s.tstate = .building then 0 else 3, (x, statusWord s) :: vars,
        { s with rsp := .data (statusWord s) }⟩
end

