-- ==== Sys2Proof/Laws/Memory.lean ====
section
/-! SUPPORT. The laws of the table RAM (spec/10_state.md R32): read after write, writes leave other entries
alone, and every operation keeps the canonical form. -/

namespace Sys2Proof.Machine

@[simp] theorem Memory.read_nil (k : Nat) : Memory.read [] k = none := rfl

theorem Memory.read_write_same (m : Memory) (k : Nat) (v : Word) : (m.write k v).read k = some v := by
  induction m with
  | nil => simp [Memory.write, Memory.read]
  | cons p m ih =>
    obtain ⟨j, w⟩ := p
    unfold Memory.write
    split_ifs with h1 h2
    · simp [Memory.read]
    · simp [Memory.read]
    · simp [Memory.read, h2, ih]

theorem Memory.read_write_other (m : Memory) (k j : Nat) (v : Word) (h : j ≠ k) :
    (m.write k v).read j = m.read j := by
  induction m with
  | nil => simp [Memory.write, Memory.read, h]
  | cons p m ih =>
    obtain ⟨i, w⟩ := p
    unfold Memory.write
    split_ifs with h1 h2
    · simp [Memory.read, h]
    · subst h2
      simp [Memory.read, h]
    · simp [Memory.read, ih]

theorem Memory.wfFrom_mono (m : Memory) (a b : Nat) (hab : a ≤ b) (h : Memory.wfFrom b m = true) :
    Memory.wfFrom a m = true := by
  cases m with
  | nil => rfl
  | cons p m =>
    simp only [Memory.wfFrom, Bool.and_eq_true, decide_eq_true_eq] at h ⊢
    exact ⟨⟨by omega, h.1.2⟩, h.2⟩

/-- A write at an index of the table keeps the canonical form. -/
theorem Memory.wfFrom_write (m : Memory) (lo k : Nat) (v : Word) (hlo : lo ≤ k) (hk : k < Config.tableSize)
    (h : Memory.wfFrom lo m = true) : Memory.wfFrom lo (m.write k v) = true := by
  induction m generalizing lo with
  | nil => simp [Memory.write, Memory.wfFrom, hlo, hk]
  | cons p m ih =>
    obtain ⟨j, w⟩ := p
    simp only [Memory.wfFrom, Bool.and_eq_true, decide_eq_true_eq] at h
    unfold Memory.write
    split_ifs with h1 h2
    · simp only [Memory.wfFrom, Bool.and_eq_true, decide_eq_true_eq]
      exact ⟨⟨hlo, hk⟩, ⟨h1, h.1.2⟩, h.2⟩
    · subst h2
      simp only [Memory.wfFrom, Bool.and_eq_true, decide_eq_true_eq]
      exact h
    · simp only [Memory.wfFrom, Bool.and_eq_true, decide_eq_true_eq]
      exact ⟨h.1, ih (j + 1) (by omega) h.2⟩

theorem Memory.wf_nil : Memory.wf [] = true := rfl

theorem Memory.wf_write (m : Memory) (k : Nat) (v : Word) (hk : k < Config.tableSize) (h : m.wf = true) :
    (m.write k v).wf = true :=
  Memory.wfFrom_write m 0 k v (Nat.zero_le k) hk h

/-- A canonical memory holds nothing below its lower bound. -/
theorem Memory.read_below (m : Memory) (lo k : Nat) (h : Memory.wfFrom lo m = true) (hk : k < lo) :
    m.read k = none := by
  induction m generalizing lo with
  | nil => rfl
  | cons p m ih =>
    obtain ⟨j, w⟩ := p
    simp only [Memory.wfFrom, Bool.and_eq_true, decide_eq_true_eq] at h
    have hne : k ≠ j := by omega
    simp only [Memory.read, hne, if_false]
    exact ih (j + 1) h.2 (by omega)

/-- Equal reads, equal data: two canonical memories that read alike everywhere are the same list. -/
theorem Memory.ext_of_wfFrom (m m' : Memory) (lo : Nat) (h : Memory.wfFrom lo m = true)
    (h' : Memory.wfFrom lo m' = true) (hr : ∀ k, m.read k = m'.read k) : m = m' := by
  induction m generalizing m' lo with
  | nil =>
    cases m' with
    | nil => rfl
    | cons p m' => have := hr p.1; simp [Memory.read] at this
  | cons p m ih =>
    obtain ⟨j, w⟩ := p
    cases m' with
    | nil => have := hr j; simp [Memory.read] at this
    | cons p' m' =>
      obtain ⟨j', w'⟩ := p'
      simp only [Memory.wfFrom, Bool.and_eq_true, decide_eq_true_eq] at h h'
      have hj : j = j' := by
        rcases Nat.lt_trichotomy j j' with hlt | heq | hgt
        · have h1 := hr j
          simp only [Memory.read, if_true, Nat.ne_of_lt hlt, if_false] at h1
          rw [Memory.read_below m' (j' + 1) j h'.2 (by omega)] at h1
          exact absurd h1 (by simp)
        · exact heq
        · have h1 := hr j'
          simp only [Memory.read, if_true, Nat.ne_of_lt hgt, if_false] at h1
          rw [Memory.read_below m (j + 1) j' h.2 (by omega)] at h1
          exact absurd h1 (by simp)
      subst hj
      have hw : w = w' := by have := hr j; simpa [Memory.read] using this
      subst hw
      have ht : m = m' := by
        refine ih m' (j + 1) h.2 h'.2 fun k => ?_
        by_cases hk : k = j
        · subst hk
          rw [Memory.read_below m (k + 1) k h.2 (by omega), Memory.read_below m' (k + 1) k h'.2 (by omega)]
        · have := hr k
          simpa [Memory.read, hk] using this
      rw [ht]

/-- A table read either answers the entry's value, or faults with the index. -/
theorem readTbl_eq_ok {t : Memory} {k : Nat} {v : Word} :
    readTbl t k = .ok v ↔ k < Config.tableSize ∧ t.read k = some v := by
  unfold readTbl
  split_ifs with h
  · cases hr : t.read k <;> simp [h]
  · simp [h]

theorem writeTbl_eq_ok {t t' : Memory} {k : Nat} {v : Word} :
    writeTbl t k v = .ok t' ↔ k < Config.tableSize ∧ t' = t.write k v := by
  unfold writeTbl
  split_ifs with h <;> simp [h, eq_comm]

/-- A write of the table RAM keeps the canonical form. -/
theorem writeTbl_wf {t t' : Memory} {k : Nat} {v : Word} (h : writeTbl t k v = .ok t') (ht : t.wf = true) :
    t'.wf = true := by
  obtain ⟨hk, rfl⟩ := writeTbl_eq_ok.mp h
  exact Memory.wf_write t k v hk ht

end Sys2Proof.Machine
end

