-- ==== Sys2Proof/Laws/State.lean ====
section
/-! SUPPORT. One lemma per field for each named update of State, true by rfl, so that no proof unfolds a
record update. -/

namespace Sys2Proof.Machine

variable (s : State)

/-! ### setOpnd -/

@[simp] theorem setOpnd_opnd (v : Word) : (setOpnd v s).opnd = v := rfl
@[simp] theorem setOpnd_res (v : Word) : (setOpnd v s).res = s.res := rfl
@[simp] theorem setOpnd_acc (v : Word) : (setOpnd v s).acc = s.acc := rfl
@[simp] theorem setOpnd_tstate (v : Word) : (setOpnd v s).tstate = s.tstate := rfl
@[simp] theorem setOpnd_errcode (v : Word) : (setOpnd v s).errcode = s.errcode := rfl
@[simp] theorem setOpnd_tbl (v : Word) : (setOpnd v s).tbl = s.tbl := rfl
@[simp] theorem setOpnd_pend (v : Word) : (setOpnd v s).pend = s.pend := rfl
@[simp] theorem setOpnd_progress (v : Word) : (setOpnd v s).progress = s.progress := rfl
@[simp] theorem setOpnd_buildLatency (v : Word) : (setOpnd v s).buildLatency = s.buildLatency := rfl
@[simp] theorem setOpnd_inputs (v : Word) : (setOpnd v s).inputs = s.inputs := rfl
@[simp] theorem setOpnd_rsp (v : Word) : (setOpnd v s).rsp = s.rsp := rfl

/-! ### setRes -/

@[simp] theorem setRes_opnd (v : Word) : (setRes v s).opnd = s.opnd := rfl
@[simp] theorem setRes_res (v : Word) : (setRes v s).res = v := rfl
@[simp] theorem setRes_acc (v : Word) : (setRes v s).acc = s.acc := rfl
@[simp] theorem setRes_tstate (v : Word) : (setRes v s).tstate = s.tstate := rfl
@[simp] theorem setRes_errcode (v : Word) : (setRes v s).errcode = s.errcode := rfl
@[simp] theorem setRes_tbl (v : Word) : (setRes v s).tbl = s.tbl := rfl
@[simp] theorem setRes_pend (v : Word) : (setRes v s).pend = s.pend := rfl
@[simp] theorem setRes_progress (v : Word) : (setRes v s).progress = s.progress := rfl
@[simp] theorem setRes_buildLatency (v : Word) : (setRes v s).buildLatency = s.buildLatency := rfl
@[simp] theorem setRes_inputs (v : Word) : (setRes v s).inputs = s.inputs := rfl
@[simp] theorem setRes_rsp (v : Word) : (setRes v s).rsp = s.rsp := rfl

/-! ### setAcc -/

@[simp] theorem setAcc_opnd (v : Word) : (setAcc v s).opnd = s.opnd := rfl
@[simp] theorem setAcc_res (v : Word) : (setAcc v s).res = s.res := rfl
@[simp] theorem setAcc_acc (v : Word) : (setAcc v s).acc = v := rfl
@[simp] theorem setAcc_tstate (v : Word) : (setAcc v s).tstate = s.tstate := rfl
@[simp] theorem setAcc_errcode (v : Word) : (setAcc v s).errcode = s.errcode := rfl
@[simp] theorem setAcc_tbl (v : Word) : (setAcc v s).tbl = s.tbl := rfl
@[simp] theorem setAcc_pend (v : Word) : (setAcc v s).pend = s.pend := rfl
@[simp] theorem setAcc_progress (v : Word) : (setAcc v s).progress = s.progress := rfl
@[simp] theorem setAcc_buildLatency (v : Word) : (setAcc v s).buildLatency = s.buildLatency := rfl
@[simp] theorem setAcc_inputs (v : Word) : (setAcc v s).inputs = s.inputs := rfl
@[simp] theorem setAcc_rsp (v : Word) : (setAcc v s).rsp = s.rsp := rfl

/-! ### setTState -/

@[simp] theorem setTState_opnd (v : TState) : (setTState v s).opnd = s.opnd := rfl
@[simp] theorem setTState_res (v : TState) : (setTState v s).res = s.res := rfl
@[simp] theorem setTState_acc (v : TState) : (setTState v s).acc = s.acc := rfl
@[simp] theorem setTState_tstate (v : TState) : (setTState v s).tstate = v := rfl
@[simp] theorem setTState_errcode (v : TState) : (setTState v s).errcode = s.errcode := rfl
@[simp] theorem setTState_tbl (v : TState) : (setTState v s).tbl = s.tbl := rfl
@[simp] theorem setTState_pend (v : TState) : (setTState v s).pend = s.pend := rfl
@[simp] theorem setTState_progress (v : TState) : (setTState v s).progress = s.progress := rfl
@[simp] theorem setTState_buildLatency (v : TState) : (setTState v s).buildLatency = s.buildLatency := rfl
@[simp] theorem setTState_inputs (v : TState) : (setTState v s).inputs = s.inputs := rfl
@[simp] theorem setTState_rsp (v : TState) : (setTState v s).rsp = s.rsp := rfl

/-! ### setErrcode -/

@[simp] theorem setErrcode_opnd (v : ErrCode) : (setErrcode v s).opnd = s.opnd := rfl
@[simp] theorem setErrcode_res (v : ErrCode) : (setErrcode v s).res = s.res := rfl
@[simp] theorem setErrcode_acc (v : ErrCode) : (setErrcode v s).acc = s.acc := rfl
@[simp] theorem setErrcode_tstate (v : ErrCode) : (setErrcode v s).tstate = s.tstate := rfl
@[simp] theorem setErrcode_errcode (v : ErrCode) : (setErrcode v s).errcode = v := rfl
@[simp] theorem setErrcode_tbl (v : ErrCode) : (setErrcode v s).tbl = s.tbl := rfl
@[simp] theorem setErrcode_pend (v : ErrCode) : (setErrcode v s).pend = s.pend := rfl
@[simp] theorem setErrcode_progress (v : ErrCode) : (setErrcode v s).progress = s.progress := rfl
@[simp] theorem setErrcode_buildLatency (v : ErrCode) : (setErrcode v s).buildLatency = s.buildLatency := rfl
@[simp] theorem setErrcode_inputs (v : ErrCode) : (setErrcode v s).inputs = s.inputs := rfl
@[simp] theorem setErrcode_rsp (v : ErrCode) : (setErrcode v s).rsp = s.rsp := rfl

/-! ### setTbl -/

@[simp] theorem setTbl_opnd (v : Memory) : (setTbl v s).opnd = s.opnd := rfl
@[simp] theorem setTbl_res (v : Memory) : (setTbl v s).res = s.res := rfl
@[simp] theorem setTbl_acc (v : Memory) : (setTbl v s).acc = s.acc := rfl
@[simp] theorem setTbl_tstate (v : Memory) : (setTbl v s).tstate = s.tstate := rfl
@[simp] theorem setTbl_errcode (v : Memory) : (setTbl v s).errcode = s.errcode := rfl
@[simp] theorem setTbl_tbl (v : Memory) : (setTbl v s).tbl = v := rfl
@[simp] theorem setTbl_pend (v : Memory) : (setTbl v s).pend = s.pend := rfl
@[simp] theorem setTbl_progress (v : Memory) : (setTbl v s).progress = s.progress := rfl
@[simp] theorem setTbl_buildLatency (v : Memory) : (setTbl v s).buildLatency = s.buildLatency := rfl
@[simp] theorem setTbl_inputs (v : Memory) : (setTbl v s).inputs = s.inputs := rfl
@[simp] theorem setTbl_rsp (v : Memory) : (setTbl v s).rsp = s.rsp := rfl

/-! ### setPend -/

@[simp] theorem setPend_opnd (v : Option Pending) : (setPend v s).opnd = s.opnd := rfl
@[simp] theorem setPend_res (v : Option Pending) : (setPend v s).res = s.res := rfl
@[simp] theorem setPend_acc (v : Option Pending) : (setPend v s).acc = s.acc := rfl
@[simp] theorem setPend_tstate (v : Option Pending) : (setPend v s).tstate = s.tstate := rfl
@[simp] theorem setPend_errcode (v : Option Pending) : (setPend v s).errcode = s.errcode := rfl
@[simp] theorem setPend_tbl (v : Option Pending) : (setPend v s).tbl = s.tbl := rfl
@[simp] theorem setPend_pend (v : Option Pending) : (setPend v s).pend = v := rfl
@[simp] theorem setPend_progress (v : Option Pending) : (setPend v s).progress = s.progress := rfl
@[simp] theorem setPend_buildLatency (v : Option Pending) : (setPend v s).buildLatency = s.buildLatency := rfl
@[simp] theorem setPend_inputs (v : Option Pending) : (setPend v s).inputs = s.inputs := rfl
@[simp] theorem setPend_rsp (v : Option Pending) : (setPend v s).rsp = s.rsp := rfl

/-! ### setProgress -/

@[simp] theorem setProgress_opnd (v : Progress) : (setProgress v s).opnd = s.opnd := rfl
@[simp] theorem setProgress_res (v : Progress) : (setProgress v s).res = s.res := rfl
@[simp] theorem setProgress_acc (v : Progress) : (setProgress v s).acc = s.acc := rfl
@[simp] theorem setProgress_tstate (v : Progress) : (setProgress v s).tstate = s.tstate := rfl
@[simp] theorem setProgress_errcode (v : Progress) : (setProgress v s).errcode = s.errcode := rfl
@[simp] theorem setProgress_tbl (v : Progress) : (setProgress v s).tbl = s.tbl := rfl
@[simp] theorem setProgress_pend (v : Progress) : (setProgress v s).pend = s.pend := rfl
@[simp] theorem setProgress_progress (v : Progress) : (setProgress v s).progress = v := rfl
@[simp] theorem setProgress_buildLatency (v : Progress) : (setProgress v s).buildLatency = s.buildLatency := rfl
@[simp] theorem setProgress_inputs (v : Progress) : (setProgress v s).inputs = s.inputs := rfl
@[simp] theorem setProgress_rsp (v : Progress) : (setProgress v s).rsp = s.rsp := rfl

/-! ### respond -/

@[simp] theorem respond_opnd (v : Response) : (respond v s).opnd = s.opnd := rfl
@[simp] theorem respond_res (v : Response) : (respond v s).res = s.res := rfl
@[simp] theorem respond_acc (v : Response) : (respond v s).acc = s.acc := rfl
@[simp] theorem respond_tstate (v : Response) : (respond v s).tstate = s.tstate := rfl
@[simp] theorem respond_errcode (v : Response) : (respond v s).errcode = s.errcode := rfl
@[simp] theorem respond_tbl (v : Response) : (respond v s).tbl = s.tbl := rfl
@[simp] theorem respond_pend (v : Response) : (respond v s).pend = s.pend := rfl
@[simp] theorem respond_progress (v : Response) : (respond v s).progress = s.progress := rfl
@[simp] theorem respond_buildLatency (v : Response) : (respond v s).buildLatency = s.buildLatency := rfl
@[simp] theorem respond_inputs (v : Response) : (respond v s).inputs = s.inputs := rfl
@[simp] theorem respond_rsp (v : Response) : (respond v s).rsp = v := rfl

/-! ### popInput -/

@[simp] theorem popInput_opnd : (popInput s).opnd = s.opnd := rfl
@[simp] theorem popInput_res : (popInput s).res = s.res := rfl
@[simp] theorem popInput_acc : (popInput s).acc = s.acc := rfl
@[simp] theorem popInput_tstate : (popInput s).tstate = s.tstate := rfl
@[simp] theorem popInput_errcode : (popInput s).errcode = s.errcode := rfl
@[simp] theorem popInput_tbl : (popInput s).tbl = s.tbl := rfl
@[simp] theorem popInput_pend : (popInput s).pend = s.pend := rfl
@[simp] theorem popInput_progress : (popInput s).progress = s.progress := rfl
@[simp] theorem popInput_buildLatency : (popInput s).buildLatency = s.buildLatency := rfl
@[simp] theorem popInput_inputs : (popInput s).inputs = s.inputs.tail := rfl
@[simp] theorem popInput_rsp : (popInput s).rsp = .silent := rfl

/-! ### cmdError -/

@[simp] theorem cmdError_opnd (c : ErrCode) : (cmdError c s).opnd = s.opnd := rfl
@[simp] theorem cmdError_res (c : ErrCode) : (cmdError c s).res = s.res := rfl
@[simp] theorem cmdError_acc (c : ErrCode) : (cmdError c s).acc = s.acc := rfl
@[simp] theorem cmdError_tstate (c : ErrCode) : (cmdError c s).tstate = s.tstate := rfl
@[simp] theorem cmdError_errcode (c : ErrCode) : (cmdError c s).errcode = recordError c s.errcode := rfl
@[simp] theorem cmdError_tbl (c : ErrCode) : (cmdError c s).tbl = s.tbl := rfl
@[simp] theorem cmdError_pend (c : ErrCode) : (cmdError c s).pend = s.pend := rfl
@[simp] theorem cmdError_progress (c : ErrCode) : (cmdError c s).progress = s.progress := rfl
@[simp] theorem cmdError_buildLatency (c : ErrCode) : (cmdError c s).buildLatency = s.buildLatency := rfl
@[simp] theorem cmdError_inputs (c : ErrCode) : (cmdError c s).inputs = s.inputs := rfl
@[simp] theorem cmdError_rsp (c : ErrCode) : (cmdError c s).rsp = s.rsp := rfl

/-! ### clearError -/

@[simp] theorem clearError_opnd : (clearError s).opnd = s.opnd := rfl
@[simp] theorem clearError_res : (clearError s).res = s.res := rfl
@[simp] theorem clearError_acc : (clearError s).acc = s.acc := rfl
@[simp] theorem clearError_tstate : (clearError s).tstate = s.tstate := rfl
@[simp] theorem clearError_errcode : (clearError s).errcode = .noError := rfl
@[simp] theorem clearError_tbl : (clearError s).tbl = s.tbl := rfl
@[simp] theorem clearError_pend : (clearError s).pend = s.pend := rfl
@[simp] theorem clearError_progress : (clearError s).progress = s.progress := rfl
@[simp] theorem clearError_buildLatency : (clearError s).buildLatency = s.buildLatency := rfl
@[simp] theorem clearError_inputs : (clearError s).inputs = s.inputs := rfl
@[simp] theorem clearError_rsp : (clearError s).rsp = s.rsp := rfl

/-! ### startBuild -/

@[simp] theorem startBuild_opnd : (startBuild s).opnd = s.opnd := rfl
@[simp] theorem startBuild_res : (startBuild s).res = s.res := rfl
@[simp] theorem startBuild_acc : (startBuild s).acc = s.acc := rfl
@[simp] theorem startBuild_tstate : (startBuild s).tstate = .building := rfl
@[simp] theorem startBuild_errcode : (startBuild s).errcode = s.errcode := rfl
@[simp] theorem startBuild_tbl : (startBuild s).tbl = s.tbl := rfl
@[simp] theorem startBuild_pend : (startBuild s).pend = s.pend := rfl
@[simp] theorem startBuild_progress : (startBuild s).progress = .active s.buildLatency .beforeStep0 := rfl
@[simp] theorem startBuild_buildLatency : (startBuild s).buildLatency = s.buildLatency := rfl
@[simp] theorem startBuild_inputs : (startBuild s).inputs = s.inputs := rfl
@[simp] theorem startBuild_rsp : (startBuild s).rsp = s.rsp := rfl

/-! ### latch -/

@[simp] theorem latch_opnd (c : LatchedCmd) : (latch c s).opnd = s.opnd := rfl
@[simp] theorem latch_res (c : LatchedCmd) : (latch c s).res = s.res := rfl
@[simp] theorem latch_acc (c : LatchedCmd) : (latch c s).acc = s.acc := rfl
@[simp] theorem latch_tstate (c : LatchedCmd) : (latch c s).tstate = s.tstate := rfl
@[simp] theorem latch_errcode (c : LatchedCmd) : (latch c s).errcode = s.errcode := rfl
@[simp] theorem latch_tbl (c : LatchedCmd) : (latch c s).tbl = s.tbl := rfl
@[simp] theorem latch_pend (c : LatchedCmd) : (latch c s).pend = some ⟨c, s.opnd⟩ := rfl
@[simp] theorem latch_progress (c : LatchedCmd) : (latch c s).progress = s.progress := rfl
@[simp] theorem latch_buildLatency (c : LatchedCmd) : (latch c s).buildLatency = s.buildLatency := rfl
@[simp] theorem latch_inputs (c : LatchedCmd) : (latch c s).inputs = s.inputs := rfl
@[simp] theorem latch_rsp (c : LatchedCmd) : (latch c s).rsp = s.rsp := rfl

/-! ### completed -/

@[simp] theorem completed_opnd (t : Memory) : (completed t s).opnd = s.opnd := rfl
@[simp] theorem completed_res (t : Memory) : (completed t s).res = s.res := rfl
@[simp] theorem completed_acc (t : Memory) : (completed t s).acc = s.acc := rfl
@[simp] theorem completed_tstate (t : Memory) : (completed t s).tstate = .built := rfl
@[simp] theorem completed_errcode (t : Memory) : (completed t s).errcode = s.errcode := rfl
@[simp] theorem completed_tbl (t : Memory) : (completed t s).tbl = t := rfl
@[simp] theorem completed_pend (t : Memory) : (completed t s).pend = none := rfl
@[simp] theorem completed_progress (t : Memory) : (completed t s).progress = .idle := rfl
@[simp] theorem completed_buildLatency (t : Memory) : (completed t s).buildLatency = s.buildLatency := rfl
@[simp] theorem completed_inputs (t : Memory) : (completed t s).inputs = s.inputs := rfl
@[simp] theorem completed_rsp (t : Memory) : (completed t s).rsp = s.rsp := rfl

/-! ### resetBlock -/

@[simp] theorem resetBlock_opnd : (resetBlock s).opnd = 0#32 := rfl
@[simp] theorem resetBlock_res : (resetBlock s).res = 0#32 := rfl
@[simp] theorem resetBlock_acc : (resetBlock s).acc = Config.initAcc := rfl
@[simp] theorem resetBlock_tstate : (resetBlock s).tstate = .unbuilt := rfl
@[simp] theorem resetBlock_errcode : (resetBlock s).errcode = .noError := rfl
@[simp] theorem resetBlock_tbl : (resetBlock s).tbl = [] := rfl
@[simp] theorem resetBlock_pend : (resetBlock s).pend = none := rfl
@[simp] theorem resetBlock_progress : (resetBlock s).progress = .idle := rfl
@[simp] theorem resetBlock_buildLatency : (resetBlock s).buildLatency = s.buildLatency := rfl
@[simp] theorem resetBlock_inputs : (resetBlock s).inputs = s.inputs := rfl
@[simp] theorem resetBlock_rsp : (resetBlock s).rsp = .silent := rfl

end Sys2Proof.Machine
end

