-- ==== Sys2Proof/Laws/Ops.lean ====
section
/-! SUPPORT. What each shared operation can do, said once: recording an error, the issue conditions, the
update rule, a table load (spec/30_encoding.md R80, spec/42_accumulator.md R132, spec/60_exceptions.md
R160). -/

namespace Sys2Proof.Machine

/-! ### Sequencing -/

@[simp] theorem andThen_next (s : State) (f : State → Result) : Result.andThen (.next s) f = f s := rfl

@[simp] theorem andThen_fault (e : Fault) (f : State → Result) : Result.andThen (.fault e) f = .fault e := rfl

@[simp] theorem andThen_refused (e : Refusal) (f : State → Result) :
    Result.andThen (.refused e) f = .refused e := rfl

/-- A sequence answers a next state only through a state in between. -/
theorem andThen_eq_next {r : Result} {f : State → Result} {t : State} :
    Result.andThen r f = .next t ↔ ∃ u, r = .next u ∧ f u = .next t := by
  cases r <;> simp [Result.andThen]

/-! ### The error record -/

@[simp] theorem recordError_noError (c : ErrCode) : recordError c .noError = c := rfl

/-- The first-error rule (R30). -/
theorem recordError_eq (c old : ErrCode) : recordError c old = if old = .noError then c else old := by
  cases old <;> rfl

/-! ### Issuing -/

theorem issueDirect_building {s : State} (run : State → Result) (h : s.tstate = .building) :
    issueDirect s run = .next (cmdError .overrun s) := by
  simp only [issueDirect, h]

theorem issueDirect_ready {s : State} (run : State → Result) (h : s.tstate ≠ .building) :
    issueDirect s run = run s := by
  unfold issueDirect
  cases hs : s.tstate <;> simp_all

theorem issueTable_unbuilt {s : State} (c : LatchedCmd) (run : State → Result) (h : s.tstate = .unbuilt) :
    issueTable c s run = .next (startBuild (latch c s)) := by
  simp only [issueTable, h]

theorem issueTable_building {s : State} (c : LatchedCmd) (run : State → Result) (h : s.tstate = .building) :
    issueTable c s run = .next (cmdError .overrun s) := by
  simp only [issueTable, h]

theorem issueTable_built {s : State} (c : LatchedCmd) (run : State → Result) (h : s.tstate = .built) :
    issueTable c s run = run s := by
  simp only [issueTable, h]

/-- All an issued command that does not need the table can do. -/
theorem issueDirect_next {s t : State} {run : State → Result} (h : issueDirect s run = .next t) :
    (s.tstate = .building ∧ t = cmdError .overrun s) ∨ (s.tstate ≠ .building ∧ run s = .next t) := by
  by_cases hb : s.tstate = .building
  · rw [issueDirect_building run hb] at h
    exact .inl ⟨hb, by simpa using h.symm⟩
  · rw [issueDirect_ready run hb] at h
    exact .inr ⟨hb, h⟩

/-- All an issued command that needs the table can do. -/
theorem issueTable_next {s t : State} {c : LatchedCmd} {run : State → Result}
    (h : issueTable c s run = .next t) :
    (s.tstate = .unbuilt ∧ t = startBuild (latch c s)) ∨
    (s.tstate = .building ∧ t = cmdError .overrun s) ∨ (s.tstate = .built ∧ run s = .next t) := by
  cases hs : s.tstate with
  | unbuilt =>
    rw [issueTable_unbuilt c run hs] at h
    exact .inl ⟨rfl, by simpa using h.symm⟩
  | building =>
    rw [issueTable_building c run hs] at h
    exact .inr (.inl ⟨rfl, by simpa using h.symm⟩)
  | built =>
    rw [issueTable_built c run hs] at h
    exact .inr (.inr ⟨rfl, h⟩)

/-! ### The update rule and the table load -/

@[simp] theorem foldTbl_nil (t : Memory) (a : Word) : foldTbl t a [] = .ok a := rfl

theorem foldTbl_cons (t : Memory) (a : Word) (b : Byte) (m : List Byte) :
    foldTbl t a (b :: m) = match updTbl t a b with
      | .ok a' => foldTbl t a' m
      | .error e => .error e := rfl

/-- Folding bytes into ACC changes ACC and nothing else. -/
theorem foldAcc_next {m : List Byte} {s t : State} (h : foldAcc m s = .next t) :
    ∃ a, foldTbl s.tbl s.acc m = .ok a ∧ t = setAcc a s := by
  unfold foldAcc at h
  split at h
  · rename_i a ha
    exact ⟨a, ha, by simpa using h.symm⟩
  · simp at h

/-- A table load changes RES and nothing else. -/
theorem loadEntry_next {k : Nat} {s t : State} (h : loadEntry k s = .next t) :
    ∃ v, s.tbl.read k = some v ∧ t = setRes v s := by
  unfold loadEntry at h
  split at h
  · rename_i v hv
    exact ⟨v, (readTbl_eq_ok.mp hv).2, by simpa using h.symm⟩
  · simp at h

end Sys2Proof.Machine
end

