-- ==== Sys2Proof/Laws/Constructor.lean ====
section
/-! SUPPORT. What the constructor's micro-step, step and completion can do (spec/41_table.md R112 to
R114). -/

namespace Sys2Proof.Machine

/-- A micro-step keeps the canonical form of the table RAM. -/
theorem microStep_wf {q q' : Sequencer} {t t' : Memory} (h : microStep q t = .ok (q', t'))
    (ht : t.wf = true) : t'.wf = true := by
  unfold microStep at h
  split at h
  · split at h
    · rename_i hw
      simp only [Except.ok.injEq, Prod.mk.injEq] at h
      exact h.2 ▸ writeTbl_wf hw ht
    · simp at h
  · simp only at h
    split at h
    · split at h
      · rename_i hw
        simp only [Except.ok.injEq, Prod.mk.injEq] at h
        exact h.2 ▸ writeTbl_wf hw ht
      · simp at h
    · simp at h
  · simp only [Except.ok.injEq, Prod.mk.injEq] at h
    exact h.2 ▸ ht

@[simp] theorem runMicro_zero (q : Sequencer) (t : Memory) : runMicro 0 q t = .ok (q, t) := rfl

theorem runMicro_succ (n : Nat) (q : Sequencer) (t : Memory) :
    runMicro (n + 1) q t = match microStep q t with
      | .ok p => runMicro n p.1 p.2
      | .error e => .error e := by
  rw [runMicro]
  cases microStep q t <;> rfl

/-- Micro-steps compose. -/
theorem runMicro_add (n m : Nat) (q : Sequencer) (t : Memory) :
    runMicro (n + m) q t = match runMicro n q t with
      | .ok p => runMicro m p.1 p.2
      | .error e => .error e := by
  induction n generalizing q t with
  | zero => rw [Nat.zero_add]; rfl
  | succ n ih =>
    rw [Nat.succ_add, runMicro_succ, runMicro_succ]
    cases microStep q t with
    | error e => rfl
    | ok p => exact ih p.1 p.2

/-- A finished sequencer takes no more micro-steps. -/
theorem runMicro_finished (n : Nat) (t : Memory) : runMicro n .finished t = .ok (.finished, t) := by
  induction n with
  | zero => rfl
  | succ n ih => rw [runMicro_succ]; exact ih

theorem runMicro_wf {n : Nat} {q q' : Sequencer} {t t' : Memory} (h : runMicro n q t = .ok (q', t'))
    (ht : t.wf = true) : t'.wf = true := by
  induction n generalizing q t with
  | zero =>
    simp only [runMicro_zero, Except.ok.injEq, Prod.mk.injEq] at h
    exact h.2 ▸ ht
  | succ n ih =>
    rw [runMicro_succ] at h
    split at h
    · rename_i p hp
      exact ih h (microStep_wf (q' := p.1) (t' := p.2) hp ht)
    · simp at h

/-- All the completion step does outside RES and ACC, with or without a pending command (R114). -/
theorem complete_next {m : Memory} {s t : State} (h : complete m s = .next t) :
    t.tbl = m ∧ t.tstate = .built ∧ t.pend = none ∧ t.progress = .idle ∧ t.opnd = s.opnd ∧
      t.errcode = s.errcode ∧ t.buildLatency = s.buildLatency ∧ t.inputs = s.inputs ∧ t.rsp = s.rsp := by
  unfold complete at h
  split at h
  · obtain rfl : completed m s = t := by simpa using h
    simp
  · rename_i p hp
    unfold runPending at h
    split at h
    · obtain ⟨v, -, rfl⟩ := loadEntry_next h
      simp
    · obtain ⟨a, -, rfl⟩ := foldAcc_next h
      simp
    · obtain ⟨a, -, rfl⟩ := foldAcc_next h
      simp

/-- A step that is not enabled does nothing (R112). -/
theorem constructorStep_disabled (m : Nat) {s : State} (h : s.tstate ≠ .building) :
    constructorStep m s = .next s := by
  unfold constructorStep
  cases hs : s.tstate <;> simp_all

/-- All a constructor step can do: nothing, when not enabled; count down and advance the table; or complete
the build. -/
theorem constructorStep_next {m : Nat} {s t : State} (h : constructorStep m s = .next t) :
    ((s.tstate ≠ .building ∨ s.progress = .idle) ∧ t = s) ∨
    (∃ brem q q' u, s.tstate = .building ∧ s.progress = .active brem q ∧ 1 < brem ∧
      runMicro m q s.tbl = .ok (q', u) ∧ t = setProgress (.active (brem - 1) q') (setTbl u s)) ∨
    (∃ brem q q' u, s.tstate = .building ∧ s.progress = .active brem q ∧ brem ≤ 1 ∧
      runMicro Config.tableSize q s.tbl = .ok (q', u) ∧ complete u s = .next t) := by
  by_cases hb : s.tstate = .building
  · cases hp : s.progress with
    | idle =>
      simp only [constructorStep, hb, hp] at h
      exact .inl ⟨.inr rfl, by simpa using h.symm⟩
    | active brem q =>
      simp only [constructorStep, hb, hp] at h
      split at h
      · rename_i hle
        split at h
        · rename_i q' u hr
          exact .inr (.inr ⟨brem, q, q', u, hb, rfl, hle, hr, h⟩)
        · simp at h
      · rename_i hle
        split at h
        · rename_i q' u hr
          exact .inr (.inl ⟨brem, q, q', u, hb, rfl, by omega, hr, by simpa using h.symm⟩)
        · simp at h
  · rw [constructorStep_disabled m hb] at h
    exact .inl ⟨.inl hb, by simpa using h.symm⟩

/-- What every constructor step leaves unchanged, and that it moves TSTATE only from Building to Built. -/
theorem constructorStep_frame {m : Nat} {s u : State} (h : constructorStep m s = .next u) :
    u.opnd = s.opnd ∧ u.errcode = s.errcode ∧ u.buildLatency = s.buildLatency ∧ u.inputs = s.inputs ∧
      u.rsp = s.rsp ∧ (u.tstate = s.tstate ∨ (s.tstate = .building ∧ u.tstate = .built)) ∧
      (u.tstate = s.tstate → u.acc = s.acc ∧ u.res = s.res ∧ u.pend = s.pend) ∧
      (s.tstate ≠ .building → u = s) := by
  rcases constructorStep_next h with ⟨-, rfl⟩ | ⟨_, _, _, _, hb, -, -, -, rfl⟩ | ⟨_, _, _, _, hb, -, -, -, hc⟩
  · simp
  · simp [hb]
  · have := complete_next hc
    simp_all

end Sys2Proof.Machine
end

