-- ==== Sys2Proof/Laws/Bus.lean ====
section
/-! SUPPORT. What an access and a clock edge can do, said once (spec/20_memory.md R52, R53,
spec/30_encoding.md R80, spec/60_exceptions.md R167). -/

namespace Sys2Proof.Machine

@[simp] theorem coming_cons (s : State) (c : Cycle) (cs : List Cycle) (h : s.inputs = c :: cs) :
    coming s = c := by
  rw [coming, h]; rfl

/-- The step is the clock edge of the coming cycle. -/
theorem step_eq (s : State) : step s = clockEdge (coming s) (popInput s) := rfl

theorem clockEdge_rst {c : Cycle} (s : State) (h : c.rst = true) : clockEdge c s = .next (resetBlock s) := by
  simp [clockEdge, clockEdgeWith, h]

theorem clockEdge_quiet {c : Cycle} (s : State) (h : c.rst = false) (hc : c.construct = none) :
    clockEdge c s = accessPart c s := by
  simp [clockEdge, clockEdgeWith, h, hc]

theorem clockEdge_construct {c : Cycle} {m : Nat} (s : State) (h : c.rst = false) (hc : c.construct = some m) :
    clockEdge c s = Result.andThen (constructorStep m s) (accessPart c) := by
  simp [clockEdge, clockEdgeWith, h, hc]

theorem issue_building {s : State} (v : Word) (h : s.tstate = .building) :
    issue v s = .next (cmdError .overrun s) := by
  simp only [issue, h]

theorem issue_illegal {s : State} {v : Word} {why : Reject} (h : s.tstate ≠ .building)
    (hd : decode v = .illegal why) : issue v s = .next (cmdError .illegal s) := by
  unfold issue
  cases hs : s.tstate <;> simp_all

theorem issue_command {s : State} {v : Word} {i : Instr} (h : s.tstate ≠ .building)
    (hd : decode v = .command i) : issue v s = exec i s := by
  unfold issue
  cases hs : s.tstate <;> simp_all

/-- All that issuing a word can do (R80). -/
theorem issue_next {v : Word} {s t : State} (h : issue v s = .next t) :
    (s.tstate = .building ∧ t = cmdError .overrun s) ∨
    (∃ why, s.tstate ≠ .building ∧ decode v = .illegal why ∧ t = cmdError .illegal s) ∨
    (∃ i, s.tstate ≠ .building ∧ decode v = .command i ∧ exec i s = .next t) := by
  by_cases hb : s.tstate = .building
  · rw [issue_building v hb] at h
    exact .inl ⟨hb, by simpa using h.symm⟩
  · cases hd : decode v with
    | illegal why =>
      rw [issue_illegal hb hd] at h
      exact .inr (.inl ⟨why, hb, rfl, by simpa using h.symm⟩)
    | command i =>
      rw [issue_command hb hd] at h
      exact .inr (.inr ⟨i, hb, rfl, h⟩)

theorem hostPort_illegal {r : Request} (s : State) (h : r.legal = false) :
    hostPort r s = .fault (.busError r.off) := by
  simp [hostPort, h]

/-- A legal request is one of these (R51, R52). -/
theorem legal_cases {r : Request} (h : r.legal = true) :
    (∃ v, r = Request.wr 0x00#5 v) ∨ (∃ v, r = Request.wr 0x04#5 v) ∨
    (r.write = false ∧ ∃ g, regAt r.off = some g ∧ g ≠ .cmd) := by
  obtain ⟨w, off, be, v⟩ := r
  simp only [Request.legal, Bool.and_eq_true, decide_eq_true_eq] at h
  obtain ⟨⟨rfl, -⟩, h⟩ := h
  unfold regAt at h ⊢
  cases w
  · refine .inr (.inr ⟨rfl, ?_⟩)
    split_ifs at h ⊢ <;> simp_all [Reg.allows]
  · split_ifs at h <;> simp_all [Reg.allows, Request.wr]

theorem hostPort_cmd (v : Word) (s : State) :
    hostPort (Request.wr 0x00#5 v) s = issue v (respond .written s) := by
  have hl : (Request.wr 0x00#5 v).legal = true := rfl
  unfold hostPort
  rw [if_pos hl]
  rfl

theorem hostPort_opnd (v : Word) (s : State) :
    hostPort (Request.wr 0x04#5 v) s = .next (respond .written (setOpnd v s)) := by
  simp [hostPort, Request.legal, Request.wr, regAt, Reg.allows]

/-- A legal read returns a value and changes nothing else (R59). -/
theorem hostPort_read {r : Request} (s : State) (h : r.legal = true) (hw : r.write = false) :
    ∃ v, hostPort r s = .next (respond (.data v) s) := by
  obtain ⟨w, off, be, v⟩ := r
  obtain rfl : w = false := hw
  rcases legal_cases h with ⟨v', h'⟩ | ⟨v', h'⟩ | ⟨-, g, hg, hne⟩
  · simp [Request.wr] at h'
  · simp [Request.wr] at h'
  · unfold hostPort
    rw [if_pos h]
    simp only at hg ⊢
    rw [hg]
    cases g with
    | cmd => exact absurd rfl hne
    | opnd => exact ⟨_, rfl⟩
    | res => exact ⟨_, rfl⟩
    | acc => exact ⟨_, rfl⟩
    | status => exact ⟨_, rfl⟩

/-! ### No command raises a bus error -/

theorem readTbl_ne_busError (t : Memory) (k : Nat) (off : BitVec 5) : readTbl t k ≠ .error (.busError off) := by
  unfold readTbl
  split_ifs
  · cases t.read k <;> simp
  · simp

theorem foldTbl_ne_busError (t : Memory) (a : Word) (m : List Byte) (off : BitVec 5) :
    foldTbl t a m ≠ .error (.busError off) := by
  induction m generalizing a with
  | nil => simp
  | cons b m ih =>
    rw [foldTbl_cons]
    cases hu : updTbl t a b with
    | ok a' => exact ih a'
    | error e =>
      simp only [ne_eq, Except.error.injEq]
      rintro rfl
      unfold updTbl at hu
      simp only at hu
      split at hu
      · simp at hu
      · rename_i hr
        simp only [Except.error.injEq] at hu
        exact readTbl_ne_busError _ _ off (hu ▸ hr)

theorem foldAcc_ne_busError (m : List Byte) (s : State) (off : BitVec 5) :
    foldAcc m s ≠ .fault (.busError off) := by
  unfold foldAcc
  cases h : foldTbl s.tbl s.acc m with
  | ok a => simp
  | error e =>
    simp only [ne_eq, Host.Outcome.fault.injEq]
    rintro rfl
    exact foldTbl_ne_busError _ _ _ _ h

theorem loadEntry_ne_busError (k : Nat) (s : State) (off : BitVec 5) :
    loadEntry k s ≠ .fault (.busError off) := by
  unfold loadEntry
  cases h : readTbl s.tbl k with
  | ok a => simp
  | error e =>
    simp only [ne_eq, Host.Outcome.fault.injEq]
    rintro rfl
    exact readTbl_ne_busError _ _ _ h

theorem issueDirect_ne_busError {s : State} {run : State → Result} (off : BitVec 5)
    (h : run s ≠ .fault (.busError off)) : issueDirect s run ≠ .fault (.busError off) := by
  unfold issueDirect
  split <;> simp_all

theorem issueTable_ne_busError {s : State} {c : LatchedCmd} {run : State → Result} (off : BitVec 5)
    (h : run s ≠ .fault (.busError off)) : issueTable c s run ≠ .fault (.busError off) := by
  unfold issueTable
  split <;> simp_all

/-- A bus error belongs to the access, never to a command (R163, R164). -/
theorem exec_ne_busError (i : Instr) (s : State) (off : BitVec 5) : exec i s ≠ .fault (.busError off) := by
  cases i with
  | nop => exact issueDirect_ne_busError (run := fun s => .next s) off nofun
  | revbits =>
    exact issueDirect_ne_busError (run := fun s => .next (setRes (reverseBits s.opnd) s)) off nofun
  | bswap =>
    exact issueDirect_ne_busError (run := fun s => .next (setRes (reverseByteOrder s.opnd) s)) off nofun
  | tbuild =>
    simp only [exec, execTbuild]
    refine issueDirect_ne_busError off ?_
    cases hs : s.tstate <;> simp
  | tread k =>
    simp only [exec, execTread]
    split_ifs
    · exact issueTable_ne_busError off (loadEntry_ne_busError _ s off)
    · simp
  | ainit => exact issueDirect_ne_busError (run := fun s => .next (setAcc Config.initAcc s)) off nofun
  | aload => exact issueDirect_ne_busError (run := fun s => .next (setAcc s.opnd s)) off nofun
  | updb b => exact issueTable_ne_busError off (foldAcc_ne_busError _ s off)
  | updw c =>
    simp only [exec, execUpdw]
    split_ifs
    · exact issueTable_ne_busError off (foldAcc_ne_busError _ s off)
    · simp
  | final =>
    exact issueDirect_ne_busError (run := fun s => .next (setRes (s.acc ^^^ Config.xorOut) s)) off nofun
  | clrerr => exact issueDirect_ne_busError (run := fun s => .next (clearError s)) off nofun

theorem issue_ne_busError (v : Word) (s : State) (off : BitVec 5) : issue v s ≠ .fault (.busError off) := by
  by_cases hb : s.tstate = .building
  · simp [issue_building v hb]
  · cases hd : decode v with
    | illegal why => simp [issue_illegal hb hd]
    | command i => rw [issue_command hb hd]; exact exec_ne_busError i s off

/-! ### The access of a cycle -/

theorem deliver_illegal {r : Request} (s : State) (h : r.legal = false) :
    deliver r s = .next (respond .error s) := by
  simp [deliver, hostPort_illegal s h]

/-- Issuing reaches the step's outcome as it is. -/
theorem deliver_cmd (v : Word) (s : State) :
    deliver (Request.wr 0x00#5 v) s = issue v (respond .written s) := by
  unfold deliver
  rw [hostPort_cmd]
  cases hi : issue v (respond .written s) with
  | next u => rfl
  | fault e =>
    cases e with
    | busError off => exact absurd hi (issue_ne_busError v _ off)
    | tblNoValue k => rfl
    | tblNoEntry k => rfl
  | refused e => rfl

theorem deliver_opnd (v : Word) (s : State) :
    deliver (Request.wr 0x04#5 v) s = .next (respond .written (setOpnd v s)) := by
  simp [deliver, hostPort_opnd]

theorem deliver_read {r : Request} (s : State) (h : r.legal = true) (hw : r.write = false) :
    ∃ v, deliver r s = .next (respond (.data v) s) := by
  obtain ⟨v, hv⟩ := hostPort_read s h hw
  exact ⟨v, by simp [deliver, hv]⟩

/-- All the access of a cycle can do (R13): nothing; a bus error; a read; a write of OPND; an issued word. -/
theorem accessPart_next {c : Cycle} {s t : State} (h : accessPart c s = .next t) :
    (c.req = none ∧ t = s) ∨
    (∃ r, c.req = some r ∧ r.legal = false ∧ t = respond .error s) ∨
    (∃ r v, c.req = some r ∧ r.legal = true ∧ r.write = false ∧ t = respond (.data v) s) ∨
    (∃ v, c.req = some (Request.wr 0x04#5 v) ∧ t = respond .written (setOpnd v s)) ∨
    (∃ v, c.req = some (Request.wr 0x00#5 v) ∧ issue v (respond .written s) = .next t) := by
  unfold accessPart at h
  cases hq : c.req with
  | none =>
    rw [hq] at h
    exact .inl ⟨rfl, by simpa using h.symm⟩
  | some r =>
    rw [hq] at h
    simp only at h
    cases hl : r.legal with
    | false =>
      rw [deliver_illegal s hl] at h
      exact .inr (.inl ⟨r, rfl, hl, by simpa using h.symm⟩)
    | true =>
      rcases legal_cases hl with ⟨v, rfl⟩ | ⟨v, rfl⟩ | ⟨hw, -⟩
      · rw [deliver_cmd] at h
        exact .inr (.inr (.inr (.inr ⟨v, rfl, h⟩)))
      · rw [deliver_opnd] at h
        exact .inr (.inr (.inr (.inl ⟨v, rfl, by simpa using h.symm⟩)))
      · obtain ⟨v, hv⟩ := deliver_read s hl hw
        rw [hv] at h
        exact .inr (.inr (.inl ⟨r, v, rfl, hl, hw, by simpa using h.symm⟩))

/-- All a step can do: a reset; or the constructor's step, if it takes one, and then the access (R167). -/
theorem step_next {s t : State} (h : step s = .next t) :
    ((coming s).rst = true ∧ t = resetBlock (popInput s)) ∨
    ((coming s).rst = false ∧ ∃ u,
      (((coming s).construct = none ∧ u = popInput s) ∨
        ∃ m, (coming s).construct = some m ∧ constructorStep m (popInput s) = .next u) ∧
      accessPart (coming s) u = .next t) := by
  rw [step_eq] at h
  cases hr : (coming s).rst with
  | true =>
    rw [clockEdge_rst _ hr] at h
    exact .inl ⟨rfl, by simpa using h.symm⟩
  | false =>
    refine .inr ⟨rfl, ?_⟩
    cases hc : (coming s).construct with
    | none =>
      rw [clockEdge_quiet _ hr hc] at h
      exact ⟨popInput s, .inl ⟨rfl, rfl⟩, h⟩
    | some m =>
      rw [clockEdge_construct _ hr hc] at h
      obtain ⟨u, hu, ht⟩ := andThen_eq_next.mp h
      exact ⟨u, .inr ⟨m, rfl, hu⟩, ht⟩

end Sys2Proof.Machine
end

