-- ==== Sys2Proof/Laws/Exec.lean ====
section
/-! SUPPORT. One equation per meaning, over the shared operations, and the bits of the two transforms
(spec/40_bitreverse.md R100, R101). -/

namespace Sys2Proof.Machine

/-! ### The transforms -/

theorem getLsbD_reverseBits_aux (x : Word) (n i : Nat) (hn : n ≤ 32) (hi : i < 32) :
    ((List.range n).foldl (fun r i => r ||| ((x >>> (31 - i)) &&& 1#32) <<< i) 0#32).getLsbD i =
      (decide (i < n) && x.getLsbD (31 - i)) := by
  induction n with
  | zero => simp
  | succ n ih =>
    rw [List.range_succ, List.foldl_append, List.foldl_cons, List.foldl_nil, BitVec.getLsbD_or,
      ih (by omega)]
    simp only [BitVec.getLsbD_shiftLeft, BitVec.getLsbD_and, BitVec.getLsbD_ushiftRight, BitVec.getLsbD_one]
    rcases Nat.lt_trichotomy i n with h | rfl | h
    · simp [h, Nat.lt_succ_of_lt h]
    · simp [hi]
    · have h1 : i - n ≠ 0 := by omega
      have h2 : ¬ i < n := by omega
      have h3 : ¬ i < n + 1 := by omega
      simp [h1, h2, h3]

/-- r[i] = x[31 - i] (R100). -/
theorem getLsbD_reverseBits (x : Word) (i : Nat) (hi : i < 32) :
    (reverseBits x).getLsbD i = x.getLsbD (31 - i) := by
  rw [reverseBits, getLsbD_reverseBits_aux x 32 i (Nat.le_refl _) hi]
  simp [hi]

/-- A bit of byte k of a word (R9). -/
theorem getLsbD_byteOf (w : Word) (k i : Nat) : (byteOf w k).getLsbD i = (decide (i < 8) && w.getLsbD (8 * k + i)) := by
  simp [byteOf]

/-! ### The meanings -/

variable (s : State)

theorem exec_nop : exec .nop s = issueDirect s fun s => .next s := rfl

theorem exec_revbits : exec .revbits s = issueDirect s fun s => .next (setRes (reverseBits s.opnd) s) := rfl

theorem exec_bswap : exec .bswap s = issueDirect s fun s => .next (setRes (reverseByteOrder s.opnd) s) := rfl

theorem exec_tbuild_unbuilt (h : s.tstate = .unbuilt) : exec .tbuild s = .next (startBuild s) := by
  simp only [exec, execTbuild, issueDirect, h]

theorem exec_tbuild_building (h : s.tstate = .building) : exec .tbuild s = .next (cmdError .overrun s) := by
  simp only [exec, execTbuild, issueDirect, h]

theorem exec_tbuild_built (h : s.tstate = .built) : exec .tbuild s = .next s := by
  simp only [exec, execTbuild, issueDirect, h]

theorem exec_tread {k : Nat} (hk : k < Config.tableSize) :
    exec (.tread k) s = issueTable (.tread (BitVec.ofNat 8 k)) s (runTread (BitVec.ofNat 8 k)) := by
  simp only [exec, execTread, if_pos hk]

theorem exec_ainit : exec .ainit s = issueDirect s fun s => .next (setAcc Config.initAcc s) := rfl

theorem exec_aload : exec .aload s = issueDirect s fun s => .next (setAcc s.opnd s) := rfl

theorem exec_updb (b : Byte) : exec (.updb b) s = issueTable (.updb b) s (runUpdb b) := rfl

theorem exec_updw {c : Nat} (h1 : 1 ≤ c) (h4 : c ≤ 4) :
    exec (.updw c) s =
      issueTable (.updw (BitVec.ofNat 2 (c - 1))) s (runUpdw (BitVec.ofNat 2 (c - 1)) s.opnd) := by
  simp only [exec, execUpdw, if_pos (And.intro h1 h4)]

theorem exec_final : exec .final s = issueDirect s fun s => .next (setRes (s.acc ^^^ Config.xorOut) s) := rfl

theorem exec_clrerr : exec .clrerr s = issueDirect s fun s => .next (clearError s) := rfl

/-- UPDW's byte count is the operand of its syntax (R82, R88). -/
theorem byteCount_ofNat {c : Nat} (h1 : 1 ≤ c) (h4 : c ≤ 4) : byteCount (BitVec.ofNat 2 (c - 1)) = c := by
  interval_cases c <;> rfl

/-! ### What a command can do -/

/-- The ways a command can end in a next state: dropped as OVERRUN; TBUILD starts a build; a command that
needs the table is latched and starts a build; nothing changes; CLRERR clears the record; RES is written; ACC
is written (R80, R83). -/
def CommandEffect (i : Instr) (s t : State) : Prop :=
  (s.tstate = .building ∧ t = cmdError .overrun s) ∨
  (s.tstate = .unbuilt ∧ i = .tbuild ∧ t = startBuild s) ∨
  (∃ c, s.tstate = .unbuilt ∧ ((∃ k, i = .tread k) ∨ (∃ b, i = .updb b) ∨ ∃ c, i = .updw c) ∧
    t = startBuild (latch c s)) ∨
  (s.tstate ≠ .building ∧ t = s) ∨
  (s.tstate ≠ .building ∧ i = .clrerr ∧ t = clearError s) ∨
  (∃ v, s.tstate ≠ .building ∧ (i = .revbits ∨ i = .bswap ∨ (∃ k, i = .tread k) ∨ i = .final) ∧
    t = setRes v s) ∨
  (∃ v, s.tstate ≠ .building ∧ (i = .ainit ∨ i = .aload ∨ (∃ b, i = .updb b) ∨ ∃ c, i = .updw c) ∧
    t = setAcc v s)

theorem effect_of_issueDirect {i : Instr} {s t : State} {run : State → Result}
    (h : issueDirect s run = .next t)
    (hr : s.tstate ≠ .building → run s = .next t → CommandEffect i s t) : CommandEffect i s t := by
  rcases issueDirect_next h with ⟨hb, rfl⟩ | ⟨hb, h'⟩
  · exact .inl ⟨hb, rfl⟩
  · exact hr hb h'

theorem effect_of_issueTable {i : Instr} {s t : State} {c : LatchedCmd} {run : State → Result}
    (h : issueTable c s run = .next t)
    (hi : (∃ k, i = .tread k) ∨ (∃ b, i = .updb b) ∨ ∃ c, i = .updw c)
    (hr : s.tstate ≠ .building → run s = .next t → CommandEffect i s t) : CommandEffect i s t := by
  rcases issueTable_next h with ⟨hb, rfl⟩ | ⟨hb, rfl⟩ | ⟨hb, h'⟩
  · exact .inr (.inr (.inl ⟨c, hb, hi, rfl⟩))
  · exact .inl ⟨hb, rfl⟩
  · exact hr (by simp [hb]) h'

theorem CommandEffect.same {i : Instr} {s t : State} (hb : s.tstate ≠ .building)
    (h : (.next s : Result) = .next t) : CommandEffect i s t :=
  .inr (.inr (.inr (.inl ⟨hb, by simpa using h.symm⟩)))

theorem CommandEffect.res {i : Instr} {s t : State} {v : Word} (hb : s.tstate ≠ .building)
    (hi : i = .revbits ∨ i = .bswap ∨ (∃ k, i = .tread k) ∨ i = .final) (h : t = setRes v s) :
    CommandEffect i s t :=
  .inr (.inr (.inr (.inr (.inr (.inl ⟨v, hb, hi, h⟩)))))

theorem CommandEffect.acc {i : Instr} {s t : State} {v : Word} (hb : s.tstate ≠ .building)
    (hi : i = .ainit ∨ i = .aload ∨ (∃ b, i = .updb b) ∨ ∃ c, i = .updw c) (h : t = setAcc v s) :
    CommandEffect i s t :=
  .inr (.inr (.inr (.inr (.inr (.inr ⟨v, hb, hi, h⟩)))))

/-- All a command can do. -/
theorem exec_next {i : Instr} {s t : State} (h : exec i s = .next t) : CommandEffect i s t := by
  cases i with
  | nop => exact effect_of_issueDirect ((exec_nop s).symm.trans h) fun hb h' => .same hb h'
  | revbits =>
    exact effect_of_issueDirect ((exec_revbits s).symm.trans h) fun hb h' =>
      .res hb (.inl rfl) (by simpa using h'.symm)
  | bswap =>
    exact effect_of_issueDirect ((exec_bswap s).symm.trans h) fun hb h' =>
      .res hb (.inr (.inl rfl)) (by simpa using h'.symm)
  | tbuild =>
    cases hs : s.tstate with
    | unbuilt =>
      rw [exec_tbuild_unbuilt s hs] at h
      exact .inr (.inl ⟨hs, rfl, by simpa using h.symm⟩)
    | building =>
      rw [exec_tbuild_building s hs] at h
      exact .inl ⟨hs, by simpa using h.symm⟩
    | built =>
      rw [exec_tbuild_built s hs] at h
      exact .same (by simp [hs]) h
  | tread k =>
    by_cases hk : k < Config.tableSize
    · rw [exec_tread s hk] at h
      refine effect_of_issueTable h (.inl ⟨k, rfl⟩) fun hb h' => ?_
      obtain ⟨v, -, ht⟩ := loadEntry_next h'
      exact .res hb (.inr (.inr (.inl ⟨k, rfl⟩))) ht
    · simp [exec, execTread, hk] at h
  | ainit =>
    exact effect_of_issueDirect ((exec_ainit s).symm.trans h) fun hb h' =>
      .acc hb (.inl rfl) (by simpa using h'.symm)
  | aload =>
    exact effect_of_issueDirect ((exec_aload s).symm.trans h) fun hb h' =>
      .acc hb (.inr (.inl rfl)) (by simpa using h'.symm)
  | updb b =>
    refine effect_of_issueTable h (.inr (.inl ⟨b, rfl⟩)) fun hb h' => ?_
    obtain ⟨v, -, ht⟩ := foldAcc_next h'
    exact .acc hb (.inr (.inr (.inl ⟨b, rfl⟩))) ht
  | updw c =>
    by_cases hc : 1 ≤ c ∧ c ≤ 4
    · rw [exec_updw s hc.1 hc.2] at h
      refine effect_of_issueTable h (.inr (.inr ⟨c, rfl⟩)) fun hb h' => ?_
      obtain ⟨v, -, ht⟩ := foldAcc_next h'
      exact .acc hb (.inr (.inr (.inr ⟨c, rfl⟩))) ht
    · simp [exec, execUpdw, hc] at h
  | final =>
    exact effect_of_issueDirect ((exec_final s).symm.trans h) fun hb h' =>
      .res hb (.inr (.inr (.inr rfl))) (by simpa using h'.symm)
  | clrerr =>
    exact effect_of_issueDirect ((exec_clrerr s).symm.trans h) fun hb h' =>
      .inr (.inr (.inr (.inr (.inl ⟨hb, rfl, by simpa using h'.symm⟩))))

end Sys2Proof.Machine
end

