-- ==== Sys2Proof/Laws/PerInstr.lean ====
section
/-! SUPPORT. A statement about every command as syntax, one lemma per constructor: the fields of its word
(spec/30_encoding.md R81). -/

namespace Sys2Proof.Laws.EncodedFields

/-- The word of `i` has the opcode of `i` in OPC, RSV = 0, and its own N and IMM8 (R81). -/
def Statement (i : Instr) : Prop :=
  opcField (encode i) = opcode i ∧ rsvField (encode i) = 0#14 ∧ nField (encode i) = nOf i ∧
    imm8Field (encode i) = imm8Of i

/-- The four fields of a word laid out as R81 draws it. -/
theorem fields_of_append (o : Byte) (r : BitVec 14) (n : BitVec 2) (b : Byte) :
    opcField (o ++ r ++ n ++ b) = o ∧ rsvField (o ++ r ++ n ++ b) = r ∧ nField (o ++ r ++ n ++ b) = n ∧
      imm8Field (o ++ r ++ n ++ b) = b := by
  refine ⟨?_, ?_, ?_, ?_⟩ <;>
    (ext i hi; simp only [opcField, rsvField, nField, imm8Field, BitVec.getElem_extractLsb',
      BitVec.getLsbD_append]; simp only [BitVec.getElem_eq_testBit_toNat, BitVec.getLsbD]; split_ifs <;>
      first | omega | congr 1; omega)

theorem statement (i : Instr) : Statement i := fields_of_append (opcode i) 0#14 (nOf i) (imm8Of i)

theorem nop : Statement .nop := statement _
theorem revbits : Statement .revbits := statement _
theorem bswap : Statement .bswap := statement _
theorem tbuild : Statement .tbuild := statement _
theorem tread (k : Nat) : Statement (.tread k) := statement _
theorem ainit : Statement .ainit := statement _
theorem aload : Statement .aload := statement _
theorem updb (b : Byte) : Statement (.updb b) := statement _
theorem updw (c : Nat) : Statement (.updw c) := statement _
theorem final : Statement .final := statement _
theorem clrerr : Statement .clrerr := statement _

end Sys2Proof.Laws.EncodedFields
end

