-- ==== Sys2Proof/Tests/Slice0.lean ====
section
/-! SUPPORT. Tests and witnesses. Expected values come from spec/95_test_vectors.md (the vector's id stands
beside each test) or from the rule named; each witness meets all hypotheses of the statement it is named
after. -/

namespace Sys2Proof.Tests

open Sys2Proof.Machine

/-! ## Well-formedness (R88) -/

theorem test_wf_refuses_tread_256 : (Instr.tread 256).wf = false := by decide
theorem test_wf_accepts_tread_255 : (Instr.tread 255).wf = true := by decide
theorem test_wf_refuses_updw_0 : (Instr.updw 0).wf = false := by decide
theorem test_wf_refuses_updw_5 : (Instr.updw 5).wf = false := by decide
theorem test_wf_accepts_updw_1_and_4 : (Instr.updw 1).wf = true ∧ (Instr.updw 4).wf = true := by decide
theorem test_assembler_rejects_out_of_range :
    assemble (.tread 256) = none ∧ assemble (.updw 0) = none ∧ assemble (.updw 5) = none := by decide

/-! ## Decoding: the words of the opcode map (R81, R83, R84) and the listings of sections 2.4 and 5 -/

theorem test_decode_nop : decode 0x00000000#32 = .command .nop := by decide
theorem test_decode_revbits : decode 0x01000000#32 = .command .revbits := by decide
theorem test_decode_bswap : decode 0x02000000#32 = .command .bswap := by decide
theorem test_decode_tbuild : decode 0x03000000#32 = .command .tbuild := by decide
theorem test_decode_tread_128 : decode 0x04000080#32 = .command (.tread 128) := by decide
theorem test_decode_tread_255 : decode 0x040000FF#32 = .command (.tread 255) := by decide
theorem test_decode_ainit : decode 0x05000000#32 = .command .ainit := by decide
theorem test_decode_aload : decode 0x06000000#32 = .command .aload := by decide
theorem test_decode_updb : decode 0x07000031#32 = .command (.updb 0x31#8) := by decide
theorem test_decode_updw_1 : decode 0x08000000#32 = .command (.updw 1) := by decide
theorem test_decode_updw_2 : decode 0x08000100#32 = .command (.updw 2) := by decide
theorem test_decode_updw_4 : decode 0x08000300#32 = .command (.updw 4) := by decide
theorem test_decode_final : decode 0x09000000#32 = .command .final := by decide
theorem test_decode_clrerr : decode 0x0A000000#32 = .command .clrerr := by decide
theorem test_decode_fields_of_updw_3 :
    decode (0b00001000#8 ++ 0b00000000000000#14 ++ 0b10#2 ++ 0b00000000#8) = .command (.updw 3) := by decide

/-- E1, E2. -/
theorem test_illegal_reserved_opcode :
    decode 0x0B000000#32 = .illegal .reservedOpcode ∧ decode 0xFF000000#32 = .illegal .reservedOpcode := by
  decide

/-- E3, E4, E5, E7. -/
theorem test_illegal_unused_field :
    decode 0x01000001#32 = .illegal .unusedField ∧ decode 0x07000131#32 = .illegal .unusedField ∧
    decode 0x08000001#32 = .illegal .unusedField ∧ decode 0x04000100#32 = .illegal .unusedField := by decide

/-- E6, and the top RSV bit. -/
theorem test_illegal_reserved_bits :
    decode 0x00000400#32 = .illegal .reservedBits ∧ decode 0x00800000#32 = .illegal .reservedBits := by decide

/-- A word of the opcode table, and one that is too long to be a command (R87). -/
theorem test_decodeTableWord :
    decodeTableWord 32 0x040000FF = some (.tread 255) ∧ decodeTableWord 40 0x0140000000 = none := by decide

/-! ## States -/

/-- A Built block with a few table entries listed. -/
def builtWith (tbl : Memory) (acc opnd : Word) : State :=
  { State.reset with tstate := .built, tbl := tbl, acc := acc, opnd := opnd }

/-- The table entries A1 to A4 read (section 2.3). -/
def chainTable : Memory :=
  [(0x01, 0x77073096#32), (0x19, 0x646BA8C0#32), (0x7A, 0xB0D09822#32), (0xCE, 0x7CDCEFB7#32)]

/-- A Built block with the whole table. -/
def built : State := { State.reset with tstate := .built, tbl := referenceMemory }

/-- A block whose build has just begun, with nothing latched (T16). -/
def building : State := startBuild State.reset

/-- A block whose build has just begun, with a command latched. -/
def buildingWith (p : LatchedCmd) : State := { building with pend := some ⟨p, 0x34333231#32⟩ }

/-- A build with `n` constructor steps to go. -/
def buildingFor (n : Nat) : State := { building with progress := .active n .beforeStep0 }

/-- One clock edge to come. -/
def facing (c : Cycle) (s : State) : State := { s with inputs := [c] }

def withOpnd (v : Word) : State := { State.reset with opnd := v }

/-! ## One step of each command -/

/-- B1, B10. -/
theorem test_revbits :
    exec .revbits (withOpnd 0x04C11DB7#32) =
      .next { withOpnd 0x04C11DB7#32 with res := 0xEDB88320#32 } ∧
    exec .revbits (withOpnd 0xF0000000#32) =
      .next { withOpnd 0xF0000000#32 with res := 0x0000000F#32 } := ⟨rfl, rfl⟩

/-- B7, B15. -/
theorem test_bswap :
    exec .bswap (withOpnd 0x12345678#32) = .next { withOpnd 0x12345678#32 with res := 0x78563412#32 } ∧
    exec .bswap (withOpnd 0x04C11DB7#32) =
      .next { withOpnd 0x04C11DB7#32 with res := 0xB71DC104#32 } := ⟨rfl, rfl⟩

/-- T16: STATUS = 0x00000005 after TBUILD. -/
theorem test_tbuild_from_reset :
    ∃ t, exec .tbuild State.reset = .next t ∧ statusWord t = 0x00000005#32 ∧ pv t = false :=
  ⟨building, rfl, rfl, rfl⟩

/-- T20: TBUILD during a build is dropped, STATUS = 0x00000205. -/
theorem test_tbuild_during_build :
    ∃ t, exec .tbuild building = .next t ∧ statusWord t = 0x00000205#32 ∧ t.progress = building.progress :=
  ⟨{ building with errcode := .overrun }, rfl, rfl, rfl⟩

/-- T18: TREAD 1 from reset is latched, STATUS = 0x0000000D, RES unchanged. -/
theorem test_tread_from_reset :
    ∃ t, exec (.tread 1) State.reset = .next t ∧ statusWord t = 0x0000000D#32 ∧ t.res = 0x00000000#32 :=
  ⟨{ building with pend := some ⟨.tread 1#8, 0#32⟩ }, rfl, rfl, rfl⟩

/-- T19. -/
theorem test_tread_built :
    exec (.tread 255) (builtWith [(255, 0x2D02EF8D#32)] 7#32 9#32) =
      .next { builtWith [(255, 0x2D02EF8D#32)] 7#32 9#32 with res := 0x2D02EF8D#32 } := rfl

/-- A25. -/
theorem test_ainit :
    exec .ainit (builtWith [] 0x12345678#32 0#32) = .next (builtWith [] 0xFFFFFFFF#32 0#32) := rfl

/-- A21. -/
theorem test_aload :
    exec .aload (builtWith [] 0xFFFFFFFF#32 0x12345678#32) =
      .next (builtWith [] 0x12345678#32 0x12345678#32) := rfl

/-- A1, and A19 (the top bit of the byte reaches the index). -/
theorem test_updb :
    exec (.updb 0x31#8) (builtWith chainTable 0xFFFFFFFF#32 0#32) =
      .next (builtWith chainTable 0x7C231048#32 0#32) ∧
    exec (.updb 0x80#8) (builtWith [(128, 0xEDB88320#32)] 0#32 0#32) =
      .next (builtWith [(128, 0xEDB88320#32)] 0xEDB88320#32 0#32) := ⟨rfl, rfl⟩

/-- P1 line 2: the first UPDB after reset is latched with OPND, ACC unchanged. -/
theorem test_updb_from_reset :
    exec (.updb 0x31#8) State.reset =
      .next { building with pend := some ⟨.updb 0x31#8, 0#32⟩ } := rfl

/-- A12: four bytes, byte 0 first. -/
theorem test_updw_4 :
    exec (.updw 4) (builtWith chainTable 0xFFFFFFFF#32 0x34333231#32) =
      .next (builtWith chainTable 0x641C1F5C#32 0x34333231#32) := rfl

/-- A11 and A16: the bytes above the count are ignored. -/
theorem test_updw_ignores_upper_bytes :
    exec (.updw 1) (builtWith chainTable 0xFFFFFFFF#32 0xAABBCC31#32) =
      .next (builtWith chainTable 0x7C231048#32 0xAABBCC31#32) ∧
    exec (.updw 3) (builtWith chainTable 0xFFFFFFFF#32 0xFF333231#32) =
      .next (builtWith chainTable 0x77B79C2D#32 0xFF333231#32) := ⟨rfl, rfl⟩

/-- A10, A26. -/
theorem test_final :
    exec .final (builtWith [] 0x340BC6D9#32 0#32) =
      .next { builtWith [] 0x340BC6D9#32 0#32 with res := 0xCBF43926#32 } ∧
    exec .final State.reset = .next State.reset := ⟨rfl, rfl⟩

/-- E11. -/
theorem test_clrerr :
    exec .clrerr { builtWith [] 1#32 2#32 with errcode := .illegal } = .next (builtWith [] 1#32 2#32) := rfl

/-- E12. -/
theorem test_clrerr_during_build : exec .clrerr building = .next { building with errcode := .overrun } := rfl

/-- E13, E8. -/
theorem test_nop :
    exec .nop (builtWith [] 1#32 2#32) = .next (builtWith [] 1#32 2#32) ∧
    exec .nop building = .next { building with errcode := .overrun } := ⟨rfl, rfl⟩

/-- An ill-formed term is refused by name. -/
theorem test_ill_formed_refused :
    exec (.tread 256) State.reset = .refused (.operandOutOfRange "TREAD") ∧
    exec (.updw 0) State.reset = .refused (.operandOutOfRange "UPDW") ∧
    exec (.updw 5) State.reset = .refused (.operandOutOfRange "UPDW") := ⟨rfl, rfl, rfl⟩

/-! ## One step through the bus -/

/-- E1. -/
theorem test_bus_illegal_word :
    ∃ t, step (facing (Cycle.cmd 0x0B000000#32) (builtWith [] 1#32 2#32)) = .next t ∧
      statusWord t = 0x00000102#32 ∧ t.rsp = .written :=
  ⟨{ builtWith [] 1#32 2#32 with errcode := .illegal, rsp := .written }, rfl, rfl, rfl⟩

/-- E9: OVERRUN is checked before the word is decoded. -/
theorem test_bus_overrun_before_illegal :
    step (facing (Cycle.cmd 0x0B000000#32) building) =
      .next { building with errcode := .overrun, rsp := .written } := rfl

/-- E10. -/
theorem test_bus_first_error_wins :
    step (facing (Cycle.cmd 0xFF000000#32) { builtWith [] 1#32 2#32 with errcode := .overrun }) =
      .next { builtWith [] 1#32 2#32 with errcode := .overrun, rsp := .written } := rfl

/-- E14 to E18 and E21: bus errors, and the word on the bus does not matter. -/
theorem test_bus_errors :
    (∀ c ∈ [Cycle.ofRequest (Request.wr 0x0C#5 0#32), Cycle.ofRequest (Request.rd 0x00#5),
        Cycle.ofRequest (Request.rd 0x14#5), Cycle.ofRequest ⟨true, 0x04#5, 0b0001#4, 5#32⟩,
        Cycle.ofRequest (Request.rd 0x06#5), Cycle.ofRequest (Request.wr 0x10#5 0#32)],
      step (facing c building) = .next { building with rsp := .error }) := by
  intro c hc
  fin_cases hc <;> rfl

/-- E19: OPND is written during a build and the pending command keeps its operand. -/
theorem test_bus_opnd_during_build :
    step (facing (Cycle.ofRequest (Request.wr 0x04#5 0xDEADBEEF#32)) (buildingWith (.updw 3#2))) =
      .next { buildingWith (.updw 3#2) with opnd := 0xDEADBEEF#32, rsp := .written } := rfl

/-- E20. -/
theorem test_bus_status_during_build :
    step (facing (Cycle.ofRequest (Request.rd 0x10#5)) (buildingWith (.tread 1#8))) =
      .next { buildingWith (.tread 1#8) with rsp := .data 0x0000000D#32 } := rfl

/-- R190: reset abandons a build and clears the error record. -/
theorem test_reset_during_build :
    step (facing ⟨true, some 1, some (Request.wr 0x04#5 7#32)⟩ { buildingWith (.tread 1#8) with
      errcode := .overrun, opnd := 5#32, acc := 6#32, res := 7#32 }) = .next State.reset := rfl

/-- The host's question: the very next step runs the word. -/
theorem test_withFetchWord :
    step (State.reset.withFetchWord 32 0x02000000) = .next { State.reset with rsp := .written } := rfl

/-! ## The host's side (R88 to R90) -/

theorem test_text_of_operands :
    assembleText "tread 0xff".toList = some 0x040000FF#32 ∧ assembleText "updb 'a'".toList = some 0x07000061#32 ∧
    assembleText "TREAD 1".toList = none ∧ assembleText "updw".toList = none ∧
    assembleText "tread 0x".toList = none := by decide

/-- `crc.str "12"` is `updb 0x31; updb 0x32` (R90); a character without an ASCII code is rejected (log
entry 20). -/
theorem test_crcStr :
    crcStr "12" = some [cmdLine (.updb 0x31#8), cmdLine (.updb 0x32#8)] ∧ crcStr "é" = none ∧
    assembleText "updb 'é'".toList = none := by decide

/-- P3 line 13: `w.opnd $a` writes the host's variable to OPND. -/
theorem test_host_writes_variable :
    hostStep none ⟨[.write 0x04#5 (.var "a")], 0, [("a", 0x641C1F5C#32)], built⟩ =
      .ok ⟨[.write 0x04#5 (.var "a")], 1, [("a", 0x641C1F5C#32)],
        { built with opnd := 0x641C1F5C#32, rsp := .written }⟩ := rfl

/-! ## The micro-sequence and the table (section 2.2, section 3) -/

/-- T11, with the index 0 of step 0: the indices written by the first eleven micro-steps, rising. -/
theorem test_first_writes :
    ∃ q t, runMicro 11 .beforeStep0 [] = .ok (q, t) ∧
      t.map Prod.fst = [0, 16, 32, 48, 64, 80, 96, 128, 160, 192, 224] :=
  ⟨.writing 0xEDB88320#32 0x1DB71064#32 16 96, _, by rfl, by decide⟩

/-- The values the first three micro-steps write: T[0], T[128], T[64] (T2, T3). -/
theorem test_first_values :
    ∃ q, runMicro 3 .beforeStep0 [] =
      .ok (q, [(0, 0x00000000#32), (64, 0x76DC4190#32), (128, 0xEDB88320#32)]) :=
  ⟨.writing 0xEDB88320#32 0x76DC4190#32 64 128, by decide⟩

/-- S5, S6, T13 and the entries A1 to A3 read. -/
theorem test_table_entries :
    tableEntry 0x80#8 = 0xEDB88320#32 ∧ tableEntry 0xFF#8 = 0x2D02EF8D#32 ∧ tableEntry 3#8 = 0x990951BA#32 ∧
    tableEntry 0xCE#8 = 0x7CDCEFB7#32 ∧ tableEntry 0x7A#8 = 0xB0D09822#32 := by
  simp only [tableEntry_eq_listed]; decide

/-- S2: the check value of the reference function. -/
theorem test_check_value :
    crc32 [0x31#8, 0x32#8, 0x33#8, 0x34#8, 0x35#8, 0x36#8, 0x37#8, 0x38#8, 0x39#8] = 0xCBF43926#32 := by
  simp only [crc32, fold, upd, tableEntry_eq_listed]; decide

/-! ## Witnesses: states and operands that meet the hypotheses of the statements -/

theorem reset_safe : Safe State.reset := ⟨by decide, ⟨rfl, rfl, rfl⟩⟩

theorem built_safe : Safe built := ⟨by decide, ⟨rfl, rfl, rfl⟩⟩

theorem one_le_latency : 1 ≤ 256 := by decide

theorem buildingFor_safe (n : Nat) (h1 : 1 ≤ n) (h2 : n ≤ 256) : Safe (buildingFor n) :=
  ⟨one_le_latency, ⟨n, .beforeStep0, 0, rfl, h1, h2, rfl⟩⟩

theorem building_safe : Safe building := buildingFor_safe 256 (by decide) (by decide)

theorem buildingWith_safe (p : LatchedCmd) : Safe (buildingWith p) :=
  ⟨one_le_latency, ⟨256, .beforeStep0, 0, rfl, one_le_latency, Nat.le_refl 256, rfl⟩⟩

/-- The last constructor step of a build with a command latched. -/
def lastStepWith (p : LatchedCmd) : State := { buildingFor 1 with pend := some ⟨p, 0x34333231#32⟩ }

theorem lastStepWith_safe (p : LatchedCmd) : Safe (lastStepWith p) :=
  ⟨one_le_latency, ⟨1, .beforeStep0, 0, rfl, Nat.le_refl 1, one_le_latency, rfl⟩⟩

/-- A build whose entries are all written and whose completion step is to come. -/
def fullyWritten : State := { building with progress := .active 1 .finished, tbl := referenceMemory }

theorem fullyWritten_completes (m : Nat) (c : Cycle) :
    constructorStep m (popInput (facing c fullyWritten)) =
      .next { built with inputs := [], rsp := .silent } := by
  show (match runMicro Config.tableSize .finished referenceMemory with
    | .ok (_, t) => complete t (popInput (facing c fullyWritten))
    | .error e => .fault e) = _
  rw [runMicro_finished]
  rfl

theorem witness_DecodeEncodeRoundTrip :
    (Instr.tread 0).wf = true ∧ (Instr.tread 255).wf = true ∧ (Instr.updb 0xFF#8).wf = true ∧
    (Instr.updw 1).wf = true ∧ (Instr.updw 4).wf = true ∧ Instr.clrerr.wf = true := by decide

theorem witness_EncodeDecodeRoundTrip :
    decode 0x040000FF#32 = .command (.tread 255) ∧ decode 0x08000300#32 = .command (.updw 4) := by decide

theorem witness_LegalWordsAreTheMaskRows :
    decode 0x07000080#32 = .command (.updb 0x80#8) ∧
    (∀ r ∈ opcodeRows, r.covers r.value = true) := by decide

/-- One word for each kind of illegal word, at the ends of its range. -/
theorem witness_IllegalWordRecordsAndDrops :
    0x0B ≤ (opcField 0x0B000000#32).toNat ∧ 0x0B ≤ (opcField 0xFF000000#32).toNat ∧
    rsvField 0x00000400#32 ≠ 0#14 ∧ rsvField 0x00800000#32 ≠ 0#14 ∧
    (opcField 0x04000100#32 = 0x04#8 ∧ nField 0x04000100#32 ≠ 0#2) ∧
    (opcField 0x07000300#32 = 0x07#8 ∧ nField 0x07000300#32 ≠ 0#2) ∧
    (opcField 0x08000001#32 = 0x08#8 ∧ imm8Field 0x08000001#32 ≠ 0#8) ∧
    (opcField 0x01000001#32 = 0x01#8 ∧ imm8Field 0x01000001#32 ≠ 0#8) ∧
    (opcField 0x0A000100#32 = 0x0A#8 ∧ nField 0x0A000100#32 ≠ 0#2) ∧
    State.reset.tstate ≠ .building ∧ built.tstate ≠ .building := by decide

theorem witness_StepIssuesDecodedCommand_access :
    coming (facing (Cycle.cmd 0x07000031#32) built) = Cycle.cmd 0x07000031#32 ∧
    (facing (Cycle.cmd 0x07000031#32) built).tstate ≠ .building ∧
    decode 0x07000031#32 = .command (.updb 0x31#8) := by decide

theorem witness_StepIssuesDecodedCommand_completion :
    coming (facing ⟨false, some 3, some (Request.wr 0x00#5 0x09000000#32)⟩ fullyWritten) =
      ⟨false, some 3, some (Request.wr 0x00#5 0x09000000#32)⟩ ∧
    (∃ u, constructorStep 3 (popInput (facing ⟨false, some 3, some (Request.wr 0x00#5 0x09000000#32)⟩
      fullyWritten)) = .next u ∧ u.tstate ≠ .building) ∧
    decode 0x09000000#32 = .command .final :=
  ⟨by decide, ⟨_, fullyWritten_completes _ _, by decide⟩, by decide⟩

theorem witness_PriorityOrder :
    (coming (facing ⟨true, none, none⟩ building)).rst = true ∧
    ((coming building).rst = false ∧ (coming building).construct = some 1) ∧
    ((coming (facing (Cycle.cmd 0#32) building)).rst = false ∧
      (coming (facing (Cycle.cmd 0#32) building)).construct = none) ∧
    (Request.rd 0x14#5).legal = false ∧ building.tstate = .building ∧
    (built.tstate ≠ .building ∧ decode 0x0B000000#32 = .illegal .reservedOpcode) ∧
    decode 0x00000000#32 = .command .nop := by decide

/-- An illegal access at the first and the last offset, and one by its byte enables alone. -/
theorem witness_BusErrorChangesNothing :
    (Request.rd 0x00#5).legal = false ∧ (Request.wr 0x1F#5 0#32).legal = false ∧
    (⟨false, 0x08#5, 0xE#4, 0#32⟩ : Request).legal = false ∧
    coming (facing (Cycle.ofRequest (Request.rd 0x00#5)) building) = Cycle.ofRequest (Request.rd 0x00#5) := by
  decide

theorem witness_OverrunDropsAnyWord :
    (facing (Cycle.cmd 0xFF000000#32) building).tstate = .building ∧
    coming (facing (Cycle.cmd 0xFF000000#32) building) = Cycle.cmd 0xFF000000#32 ∧
    coming (facing (Cycle.ofRequest (Request.wr 0x04#5 7#32)) building) =
      Cycle.ofRequest (Request.wr 0x04#5 7#32) := by decide

theorem witness_ResetCycleClearsTheBlock :
    (coming (facing ⟨true, some 1, some (Request.rd 0x08#5)⟩ building)).rst = true := by decide

/-- The first address after the window; below it there is one exactly if CRC_BASE is not 0. -/
theorem witness_WindowIsThirtyTwoBytes :
    Config.crcBase + 32 ≤ Config.crcBase + 32 ∧
    (0 < Config.crcBase → Config.crcBase - 1 < Config.crcBase) :=
  ⟨Nat.le_refl _, fun h => Nat.sub_lt h Nat.one_pos⟩

/-- For the statements about one command (RevbitsReversesOpnd, BswapReversesByteOrder, AinitCreatesTheAccumulator,
AloadLoadsOpnd, FinalComplementsAcc, ClrerrClearsTheRecord, and the clauses on Unbuilt and Building states of the
others): an Unbuilt, a Building and a Built state. -/
theorem witness_TableStates :
    State.reset.tstate = .unbuilt ∧ State.reset.tstate ≠ .building ∧ building.tstate = .building ∧
    built.tstate = .built ∧ built.tstate ≠ .building := by decide

theorem witness_NopChangesNothing :
    opcField 0x00000001#32 = 0x00#8 ∧ (0x00000001#32 : Word) ≠ 0x00000000#32 ∧
    opcField 0x00800000#32 = 0x00#8 ∧ (0x00800000#32 : Word) ≠ 0x00000000#32 := by decide

theorem witness_TbuildStartsTheBuildOnce :
    State.reset.tstate = .unbuilt ∧ State.reset.pend = none ∧ State.reset.errcode = .noError ∧
    exec .tbuild State.reset = .next building := ⟨rfl, rfl, rfl, rfl⟩

/-- The first and the last table index. -/
theorem witness_TreadReadsOneEntry :
    (builtWith [(0, 0#32)] 0#32 0#32).tbl.read 0 = some 0#32 ∧
    (builtWith [(255, 0x2D02EF8D#32)] 0#32 0#32).tbl.read 255 = some 0x2D02EF8D#32 ∧
    (builtWith [(255, 0x2D02EF8D#32)] 0#32 0#32).tstate = .built := by decide

theorem witness_UpdbFoldsOneByte :
    (builtWith chainTable 0xFFFFFFFF#32 0#32).tstate = .built ∧
    chainTable.read ((0xFFFFFFFF#32 ^^^ (0x31#8).setWidth 32) &&& 0xFF#32).toNat =
      some 0x7CDCEFB7#32 := by decide

theorem witness_UpdwIsUpdbOfItsBytes : 1 ≤ 1 ∧ 1 ≤ 4 ∧ 4 ≤ 4 ∧ built.tstate = .built := by decide

theorem witness_TableCommandsCompleteWhenBuilt :
    Safe built ∧ built.tstate = .built ∧ 255 < 256 ∧ 1 ≤ 4 ∧ 4 ≤ 4 := ⟨built_safe, by decide⟩

/-- A next state for each clause of the frame: ACC, RES, TSTATE and ERRCODE change, and nothing does. -/
theorem witness_CommandFrame :
    (∃ t, exec .ainit (builtWith [] 0#32 0#32) = .next t ∧ t.acc ≠ (builtWith [] 0#32 0#32).acc) ∧
    (∃ t, exec .final (builtWith [] 0#32 0#32) = .next t ∧ t.res ≠ (builtWith [] 0#32 0#32).res) ∧
    (∃ t, exec (.tread 255) State.reset = .next t ∧ t.tstate ≠ State.reset.tstate) ∧
    (∃ t, exec .nop building = .next t ∧ t.errcode ≠ building.errcode) ∧
    (∃ t, exec .tbuild built = .next t ∧ t.tstate = built.tstate) :=
  ⟨⟨_, rfl, by decide⟩, ⟨_, rfl, by decide⟩, ⟨_, rfl, by decide⟩, ⟨_, rfl, by decide⟩, ⟨_, rfl, rfl⟩⟩

theorem witness_ReachableStatusValues :
    Safe State.reset ∧ Safe building ∧ Safe (buildingWith (.tread 1#8)) ∧ Safe built :=
  ⟨reset_safe, building_safe, buildingWith_safe _, built_safe⟩

/-- ERRCODE at 0 and not; an illegal access that is answered; one step for each way ERRCODE changes: reset, a
first error of each kind, CLRERR. -/
theorem witness_ErrcodeKeepsTheFirstError :
    State.reset.errcode = .noError ∧ ({ State.reset with errcode := .illegal } : State).errcode ≠ .noError ∧
    ((Request.rd 0x14#5).legal = false ∧ ∃ t, deliver (Request.rd 0x14#5) State.reset = .next t) ∧
    (∃ t, step (facing ⟨true, none, none⟩ { State.reset with errcode := .illegal }) = .next t ∧
      t.errcode ≠ .illegal) ∧
    (∃ t, step (facing (Cycle.cmd 0x0B000000#32) State.reset) = .next t ∧
      t.errcode ≠ State.reset.errcode) ∧
    (∃ t, step (facing (Cycle.cmd 0x00000000#32) building) = .next t ∧ t.errcode ≠ building.errcode) ∧
    (∃ t, step (facing (Cycle.cmd 0x0A000000#32) { State.reset with errcode := .overrun }) = .next t ∧
      t.errcode ≠ .overrun) :=
  ⟨rfl, by decide, ⟨by decide, _, rfl⟩, ⟨_, rfl, by decide⟩, ⟨_, rfl, by decide⟩, ⟨_, rfl, by decide⟩, ⟨_, rfl, by decide⟩⟩

/-- The premises of a reset cycle, of the start of a build and of a completion step with an access in its cycle,
and one step for each transition. -/
theorem witness_TableStateTransitions :
    (coming (facing ⟨true, none, none⟩ building)).rst = true ∧
    ((facing (Cycle.cmd 0x08000300#32) State.reset).tstate = .unbuilt ∧
      (coming (facing (Cycle.cmd 0x08000300#32) State.reset)).rst = false ∧
      (coming (facing (Cycle.cmd 0x08000300#32) State.reset)).req =
        some (Request.wr 0x00#5 0x08000300#32) ∧
      decode 0x08000300#32 = .command (.updw 4)) ∧
    (Safe (facing ⟨false, some 3, some (Request.rd 0x10#5)⟩ (lastStepWith (.tread 1#8))) ∧
      (lastStepWith (.tread 1#8)).tstate = .building ∧
      (lastStepWith (.tread 1#8)).progress = .active 1 .beforeStep0 ∧
      (coming (facing ⟨false, some 3, some (Request.rd 0x10#5)⟩ (lastStepWith (.tread 1#8)))).rst = false ∧
      (coming (facing ⟨false, some 3, some (Request.rd 0x10#5)⟩ (lastStepWith (.tread 1#8)))).construct =
        some 3) ∧
    (∃ t, step (facing ⟨true, none, none⟩ building) = .next t ∧ t.tstate ≠ building.tstate) ∧
    (∃ t, step (facing (Cycle.cmd 0x040000FF#32) State.reset) = .next t ∧
      t.tstate ≠ State.reset.tstate) ∧
    (∃ t, step (facing Cycle.quiet fullyWritten) = .next t ∧ t.tstate ≠ fullyWritten.tstate) := by
  refine ⟨rfl, ⟨rfl, rfl, rfl, by decide⟩,
    ⟨⟨one_le_latency, ⟨1, .beforeStep0, 0, rfl, Nat.le_refl 1, one_le_latency, rfl⟩⟩, rfl, rfl, rfl, rfl⟩,
    ⟨_, rfl, by decide⟩, ⟨_, rfl, by decide⟩, { built with inputs := [], rsp := .silent }, ?_, by decide⟩
  show Result.andThen (constructorStep 1 (popInput (facing Cycle.quiet fullyWritten))) _ = _
  rw [fullyWritten_completes]
  rfl

theorem witness_BuiltTableIsImmutable :
    (facing (Cycle.cmd 0x09000000#32) built).tstate = .built ∧
    (coming (facing (Cycle.cmd 0x09000000#32) built)).rst = false ∧
    (∃ t, step (facing (Cycle.cmd 0x09000000#32) built) = .next t) := ⟨rfl, rfl, _, rfl⟩

theorem witness_OpndChangesOnlyByBusWrite :
    coming (facing (Cycle.ofRequest (Request.wr 0x04#5 7#32)) building) =
      Cycle.ofRequest (Request.wr 0x04#5 7#32) ∧
    (∃ t, step (facing (Cycle.ofRequest (Request.wr 0x04#5 7#32)) building) = .next t ∧
      t.opnd ≠ building.opnd) ∧
    coming (facing (Cycle.ofRequest (Request.rd 0x04#5)) building) = Cycle.ofRequest (Request.rd 0x04#5) ∧
    (∃ t, exec .final State.reset = .next t) := ⟨rfl, ⟨_, rfl, by decide⟩, rfl, _, rfl⟩

/-- A build that goes on over a constructor step, with the command latched. -/
theorem witness_NothingVisibleDuringBuild :
    (buildingWith (.updb 1#8)).tstate = .building ∧
    (∃ t, step (buildingWith (.updb 1#8)) = .next t ∧ t.tstate = .building) := ⟨rfl, _, rfl, rfl⟩

theorem witness_MicroSequenceBuildsReferenceTable : 0 ≤ 256 ∧ 256 ≤ 256 := by decide

/-- The first constructor step of a build, and the last but one. -/
theorem witness_ConstructorStepCountsDown :
    (Safe building ∧ building.tstate = .building ∧ building.progress = .active (254 + 2) .beforeStep0) ∧
    (Safe (buildingFor 2) ∧ (buildingFor 2).tstate = .building ∧
      (buildingFor 2).progress = .active (0 + 2) .beforeStep0) :=
  ⟨⟨building_safe, rfl, rfl⟩, buildingFor_safe 2 (by decide) (by decide), rfl, rfl⟩

theorem witness_CompletionRunsThePendingCommand :
    (Safe (buildingFor 1) ∧ (buildingFor 1).tstate = .building ∧ (buildingFor 1).pend = none ∧
      (buildingFor 1).progress = .active 1 .beforeStep0) ∧
    (∀ p, Safe (lastStepWith p) ∧ (lastStepWith p).tstate = .building ∧
      (lastStepWith p).progress = .active 1 .beforeStep0 ∧
      (lastStepWith p).pend = some ⟨p, 0x34333231#32⟩) :=
  ⟨⟨buildingFor_safe 1 (by decide) (by decide), rfl, rfl, rfl⟩,
    fun p => ⟨lastStepWith_safe p, rfl, rfl, rfl⟩⟩

theorem witness_BuildCompletes :
    Safe building ∧ building.tstate = .building ∧ (∀ c ∈ building.inputs, c.rst = false) :=
  ⟨building_safe, rfl, by decide⟩

theorem witness_StepKeepsTheInvariant :
    Safe State.reset ∧ Safe building ∧ Safe (lastStepWith (.updw 3#2)) ∧ Safe built :=
  ⟨reset_safe, building_safe, lastStepWith_safe _, built_safe⟩

theorem witness_StepKeepsTableCanonical :
    built.tbl.wf = true ∧ (∃ t, step (facing (Cycle.cmd 0x09000000#32) built) = .next t) :=
  ⟨referenceMemory_wf, _, rfl⟩

theorem witness_AbstractCountdownRefines : Safe building ∧ Safe (lastStepWith (.updb 0x31#8)) :=
  ⟨building_safe, lastStepWith_safe _⟩

theorem witness_ReferenceTableProperties : 0 < 8 ∧ 7 < 8 := by decide

theorem witness_BuiltTableInvariants : Safe built ∧ built.tstate = .built := ⟨built_safe, rfl⟩

theorem witness_EveryAccumulatorIsReachable : upd 0xFFFFFFFF#32 0#8 = upd 0xFFFFFFFF#32 0#8 := rfl

theorem witness_SingleBitChangesAreDetected : 0 < 8 ∧ 7 < 8 := by decide

theorem witness_OneShotComputesCrc32 : Safe built ∧ built.tstate = .built := ⟨built_safe, rfl⟩

/-- The saving and the resuming state; they may be the same. -/
theorem witness_SavedStreamResumes : Safe built ∧ built.tstate = .built := ⟨built_safe, rfl⟩

theorem witness_EmptyInputIsZero : State.reset.tstate ≠ .building := by decide

end Sys2Proof.Tests
end

section
/-! SUPPORT. ERRCODE over a step (spec/10_state.md R30): which words clear it, and what each layer of the step
can do to it. -/

namespace Sys2Proof.Machine

/-! ### The one word of CLRERR -/

/-- A word is the concatenation of its four fields, as R81 draws it. -/
theorem word_eq_append_fields (v : Word) : opcField v ++ rsvField v ++ nField v ++ imm8Field v = v := by
  have hr : opcField v ++ rsvField v = v.extractLsb' 10 22 :=
    BitVec.extractLsb'_append_extractLsb'_eq_extractLsb' rfl
  have hn : v.extractLsb' 10 22 ++ nField v = v.extractLsb' 8 24 :=
    BitVec.extractLsb'_append_extractLsb'_eq_extractLsb' rfl
  have hi : v.extractLsb' 8 24 ++ imm8Field v = v.extractLsb' 0 32 :=
    BitVec.extractLsb'_append_extractLsb'_eq_extractLsb' rfl
  rw [hr, hn, hi, BitVec.extractLsb'_eq_self]

theorem plainCommand_eq_command {n : BitVec 2} {imm : Byte} {i j : Instr} :
    plainCommand n imm i = .command j ↔ n = 0#2 ∧ imm = 0#8 ∧ i = j := by
  unfold plainCommand
  split_ifs <;> simp_all

/-- CLRERR has the opcode 0x0A and uses no field (R83, R84). -/
theorem decodeFields_eq_clrerr {opc : Byte} {n : BitVec 2} {imm : Byte}
    (h : decodeFields opc n imm = .command .clrerr) : opc = 0x0A#8 ∧ n = 0#2 ∧ imm = 0#8 := by
  unfold decodeFields at h
  repeat' split at h
  all_goals simp only [plainCommand_eq_command, Decoded.command.injEq, reduceCtorEq, and_false] at h
  obtain ⟨hn, hi, -⟩ := h
  exact ⟨‹_›, hn, hi⟩

/-- Only the word 0x0A000000 decodes to CLRERR (R84). -/
theorem eq_clrerrWord_of_decode {v : Word} (h : decode v = .command .clrerr) : v = 0x0A000000#32 := by
  unfold decode at h
  split_ifs at h with hr
  obtain ⟨ho, hn, hi⟩ := decodeFields_eq_clrerr h
  rw [← word_eq_append_fields v, ho, not_not.mp hr, hn, hi]
  rfl

/-! ### What changes ERRCODE -/

/-- A command error changes ERRCODE only from 0, and then to its own code (R30). -/
theorem cmdError_errcode_ne {c : ErrCode} {s : State} (h : (cmdError c s).errcode ≠ s.errcode) :
    s.errcode = .noError ∧ (cmdError c s).errcode = c := by
  rw [cmdError_errcode, recordError_eq] at h ⊢
  split_ifs at h ⊢ with h0
  · exact ⟨h0, rfl⟩
  · exact absurd rfl h

/-- Of the commands that run, only CLRERR changes ERRCODE, and it clears it (R151). -/
theorem exec_errcode_ne {i : Instr} {s t : State} (hb : s.tstate ≠ .building) (h : exec i s = .next t)
    (hne : t.errcode ≠ s.errcode) : i = .clrerr ∧ t.errcode = .noError := by
  rcases exec_next h with ⟨hb', -⟩ | ⟨-, -, rfl⟩ | ⟨_, -, -, rfl⟩ | ⟨-, rfl⟩ | ⟨-, hi, rfl⟩ |
    ⟨_, -, -, rfl⟩ | ⟨_, -, -, rfl⟩
  · exact absurd hb' hb
  · exact absurd rfl hne
  · exact absurd rfl hne
  · exact absurd rfl hne
  · exact ⟨hi, rfl⟩
  · exact absurd rfl hne
  · exact absurd rfl hne

/-- Issuing a word changes ERRCODE by CLRERR's word, or by recording a first error (R30, R80). -/
theorem issue_errcode_ne {v : Word} {s t : State} (h : issue v s = .next t) (hne : t.errcode ≠ s.errcode) :
    (v = 0x0A000000#32 ∧ t.errcode = .noError) ∨
    (s.errcode = .noError ∧ (t.errcode = .illegal ∨ t.errcode = .overrun)) := by
  rcases issue_next h with ⟨-, rfl⟩ | ⟨_, -, -, rfl⟩ | ⟨i, hb, hd, hx⟩
  · obtain ⟨h0, hc⟩ := cmdError_errcode_ne hne
    exact .inr ⟨h0, .inr hc⟩
  · obtain ⟨h0, hc⟩ := cmdError_errcode_ne hne
    exact .inr ⟨h0, .inl hc⟩
  · obtain ⟨rfl, h0⟩ := exec_errcode_ne hb hx hne
    exact .inl ⟨eq_clrerrWord_of_decode hd, h0⟩

/-- Of the accesses, only a CMD write changes ERRCODE, as the word it issues does (R30, R53). -/
theorem accessPart_errcode_ne {c : Cycle} {s t : State} (h : accessPart c s = .next t)
    (hne : t.errcode ≠ s.errcode) :
    ∃ v, c.req = some (Request.wr 0x00#5 v) ∧
      ((v = 0x0A000000#32 ∧ t.errcode = .noError) ∨
        (s.errcode = .noError ∧ (t.errcode = .illegal ∨ t.errcode = .overrun))) := by
  rcases accessPart_next h with ⟨-, rfl⟩ | ⟨_, -, -, rfl⟩ | ⟨_, _, -, -, -, rfl⟩ | ⟨_, -, rfl⟩ | ⟨v, hq, hi⟩
  · exact absurd rfl hne
  · exact absurd rfl hne
  · exact absurd rfl hne
  · exact absurd rfl hne
  · exact ⟨v, hq, issue_errcode_ne (s := respond .written s) hi hne⟩

/-- What a cycle without rst does before its access leaves ERRCODE unchanged (R114, R167). -/
theorem beforeAccess_errcode {s u : State}
    (h : ((coming s).construct = none ∧ u = popInput s) ∨
      ∃ m, (coming s).construct = some m ∧ constructorStep m (popInput s) = .next u) :
    u.errcode = s.errcode := by
  rcases h with ⟨-, rfl⟩ | ⟨m, -, hk⟩
  · rfl
  · obtain ⟨-, he, -⟩ := constructorStep_frame hk
    exact he

end Sys2Proof.Machine

open Sys2Proof Sys2Proof.Machine

/-- Settles O31: the first-error rule is `recordError`'s, and a step without rst moves ERRCODE only through the
word that its access issues. -/
theorem errcodeKeepsTheFirstError : Obligations.ErrcodeKeepsTheFirstError := by
  refine ⟨fun c s => ⟨fun h => ?_, fun h => ?_⟩, rfl, rfl, rfl, fun r s t hl h => ?_, fun s t h hne => ?_⟩
  · rw [cmdError_errcode, h, recordError_noError]
  · rw [cmdError_errcode, recordError_eq, if_neg h]
  · rw [deliver_illegal s hl] at h
    cases h
    rfl
  · rcases step_next h with ⟨hr, -⟩ | ⟨-, u, hu, ha⟩
    · exact .inl hr
    · have he : u.errcode = s.errcode := beforeAccess_errcode hu
      rw [← he] at hne ⊢
      exact .inr (accessPart_errcode_ne ha hne)

end

section
/-! SUPPORT. Which accesses of the window are legal, and the rule for a legal read of any register
(spec/20_memory.md R51, R52). -/

namespace Sys2Proof.Machine

/-! ### Registers and their offsets -/

/-- The offset column of R51. -/
def Reg.offset : Reg → BitVec 5
  | .cmd => 0x00#5
  | .opnd => 0x04#5
  | .res => 0x08#5
  | .acc => 0x0C#5
  | .status => 0x10#5

theorem regAt_offset (g : Reg) : regAt g.offset = some g := by
  cases g <;> rfl

theorem regAt_eq_some {off : BitVec 5} {g : Reg} : regAt off = some g ↔ off = g.offset := by
  refine ⟨fun h => ?_, fun h => h ▸ regAt_offset g⟩
  unfold regAt at h
  split_ifs at h with hoff hoff hoff hoff hoff <;> cases h <;> exact hoff

/-- No register stands at a misaligned offset. -/
theorem Reg.offset_aligned (g : Reg) : g.offset.extractLsb' 0 2 = 0#2 := by
  cases g <;> rfl

/-! ### Legality -/

/-- R52's condition (2) follows from (3). -/
theorem legal_iff {r : Request} :
    r.legal = true ↔ r.be = 0xF#4 ∧ ∃ g : Reg, r.off = g.offset ∧ g.allows r.write = true := by
  simp only [Request.legal, Bool.and_eq_true, decide_eq_true_eq, ← regAt_eq_some]
  cases hg : regAt r.off with
  | none => simp
  | some g =>
    have ha : r.off.extractLsb' 0 2 = 0#2 := regAt_eq_some.mp hg ▸ g.offset_aligned
    simp [ha]

/-- The registers that R51 lets a bus master write. -/
theorem allows_write_iff {off : BitVec 5} :
    (∃ g : Reg, off = g.offset ∧ g.allows true = true) ↔ off = 0x00#5 ∨ off = 0x04#5 := by
  constructor
  · rintro ⟨g, rfl, hg⟩
    cases g <;> simp_all [Reg.allows, Reg.offset]
  · rintro (rfl | rfl)
    · exact ⟨.cmd, rfl, rfl⟩
    · exact ⟨.opnd, rfl, rfl⟩

/-- The registers that R51 lets a bus master read. -/
theorem allows_read_iff {off : BitVec 5} :
    (∃ g : Reg, off = g.offset ∧ g.allows false = true) ↔
      off = 0x04#5 ∨ off = 0x08#5 ∨ off = 0x0C#5 ∨ off = 0x10#5 := by
  constructor
  · rintro ⟨g, rfl, hg⟩
    cases g <;> simp_all [Reg.allows, Reg.offset]
  · rintro (rfl | rfl | rfl | rfl)
    · exact ⟨.opnd, rfl, rfl⟩
    · exact ⟨.res, rfl, rfl⟩
    · exact ⟨.acc, rfl, rfl⟩
    · exact ⟨.status, rfl, rfl⟩

/-- The legal accesses, direction by direction. -/
theorem legal_iff_offsets {r : Request} :
    r.legal = true ↔ r.be = 0xF#4 ∧
      ((r.write = true ∧ (r.off = 0x00#5 ∨ r.off = 0x04#5)) ∨
        (r.write = false ∧ (r.off = 0x04#5 ∨ r.off = 0x08#5 ∨ r.off = 0x0C#5 ∨ r.off = 0x10#5))) := by
  rw [legal_iff]
  cases r.write with
  | true => simp [allows_write_iff]
  | false => simp [allows_read_iff]

/-! ### Reads -/

theorem Reg.allows_false_of_readReg {g : Reg} {s : State} {v : Word} (h : readReg g s = some v) :
    g.allows false = true := by
  cases g with
  | cmd => cases h
  | opnd | res | acc | status => rfl

/-- A full-word read at a register's offset answers what the register holds, whatever req_wdata carries, and
changes nothing else. -/
theorem hostPort_read_offset {g : Reg} {s : State} {v : Word} (w : Word) (h : readReg g s = some v) :
    hostPort ⟨false, g.offset, 0xF#4, w⟩ s = .next (respond (.data v) s) := by
  have hl : (⟨false, g.offset, 0xF#4, w⟩ : Request).legal = true :=
    legal_iff.mpr ⟨rfl, g, rfl, Reg.allows_false_of_readReg h⟩
  simp [hostPort, hl, regAt_offset, h]

end Sys2Proof.Machine

open Sys2Proof Sys2Proof.Machine

/-- Settles O9: the register at an offset decides which directions are legal there, and each legal access is one
of the rules of `hostPort`. -/
theorem legalAccessesArePerformed : Obligations.LegalAccessesArePerformed :=
  ⟨fun _ => legal_iff_offsets, hostPort_cmd, hostPort_opnd,
    fun v _ => hostPort_read_offset (g := .opnd) v rfl,
    fun v _ => hostPort_read_offset (g := .res) v rfl,
    fun v _ => hostPort_read_offset (g := .acc) v rfl,
    fun v _ => hostPort_read_offset (g := .status) v rfl⟩

end

section
/-! SUPPORT. Decode and encode as a bijection between the legal words and the well-formed commands, the match and
mask row of each command, and the list of the legal words (spec/30_encoding.md R84, R85). -/

namespace Sys2Proof

open Sys2Proof.Machine Sys2Proof.Laws

/-! ### The operands of a command and its fields -/

/-- The bits of N that have to be 0 in the word of a command: all of them, unless its opcode uses N (R84). -/
def Instr.nMask : Instr → BitVec 2
  | .updw _ => 0#2
  | _ => 3#2

/-- The bits of IMM8 that have to be 0 in the word of a command: all of them, unless its opcode uses IMM8
(R84). -/
def Instr.imm8Mask : Instr → Byte
  | .tread _ | .updb _ => 0x00#8
  | _ => 0xFF#8

/-- The command with the opcode of `i` and the operand that N and IMM8 carry (R81). -/
def Instr.withOperands (i : Instr) (n : BitVec 2) (imm : Byte) : Instr :=
  match i with
  | .tread _ => .tread imm.toNat
  | .updb _ => .updb imm
  | .updw _ => .updw (n.toNat + 1)
  | i => i

section
variable (i : Instr) (n : BitVec 2) (imm : Byte)

theorem nOf_and_nMask : nOf i &&& i.nMask = 0#2 := by
  cases i <;> simp [nOf, Instr.nMask]

theorem imm8Of_and_imm8Mask : imm8Of i &&& i.imm8Mask = 0#8 := by
  cases i <;> simp [imm8Of, Instr.imm8Mask]

@[simp] theorem Instr.mnemonic_withOperands : (i.withOperands n imm).mnemonic = i.mnemonic := by
  cases i <;> rfl

@[simp] theorem opcode_withOperands : opcode (i.withOperands n imm) = opcode i := by
  cases i <;> rfl

/-- Every value of N and of IMM8 is an operand in range (R88). -/
theorem Instr.wf_withOperands : (i.withOperands n imm).wf = true := by
  cases i with
  | tread k => exact decide_eq_true imm.isLt
  | updw c =>
    have hn : n.toNat < 4 := n.isLt
    simpa [Instr.withOperands, Instr.wf] using Nat.succ_le_of_lt hn
  | nop | revbits | bswap | tbuild | ainit | aload | updb | final | clrerr => rfl

variable {i n imm}

theorem nOf_withOperands (h : n &&& i.nMask = 0#2) : nOf (i.withOperands n imm) = n := by
  cases i with
  | updw c => simp [Instr.withOperands, nOf]
  | nop | revbits | bswap | tbuild | tread | ainit | aload | updb | final | clrerr =>
    exact h.symm.trans BitVec.and_allOnes

theorem imm8Of_withOperands (h : imm &&& i.imm8Mask = 0#8) : imm8Of (i.withOperands n imm) = imm := by
  cases i with
  | tread k => simp [Instr.withOperands, imm8Of]
  | updb b => rfl
  | nop | revbits | bswap | tbuild | ainit | aload | updw | final | clrerr =>
    exact h.symm.trans BitVec.and_allOnes

end

/-- The operands of a well-formed command are the ones its fields carry. -/
theorem Instr.withOperands_fields {i : Instr} (h : i.wf = true) : i.withOperands (nOf i) (imm8Of i) = i := by
  cases i with
  | tread k => exact congrArg Instr.tread (Nat.mod_eq_of_lt (of_decide_eq_true h))
  | updw c =>
    obtain ⟨h1, h4⟩ : 1 ≤ c ∧ c ≤ 4 := by simpa [Instr.wf] using h
    exact congrArg Instr.updw (byteCount_ofNat h1 h4)
  | nop | revbits | bswap | tbuild | ainit | aload | updb | final | clrerr => rfl

/-! ### Decode by opcode -/

/-- One command of each opcode, in the order of the opcode map (R83). -/
def opcodeCommands : List Instr :=
  [.nop, .revbits, .bswap, .tbuild, .tread 0, .ainit, .aload, .updb 0x00#8, .updw 1, .final, .clrerr]

theorem exists_opcode_eq {opc : Byte} (h : opc.toNat < 0x0B) : ∃ i ∈ opcodeCommands, opcode i = opc := by
  decide +revert

theorem decodeFields_reserved {opc : Byte} (h : ¬ opc.toNat < 0x0B) (n : BitVec 2) (imm : Byte) :
    decodeFields opc n imm = .illegal .reservedOpcode := by
  have hne (k : Byte) (hk : k.toNat < 0x0B) : opc ≠ k := fun he => h (he ▸ hk)
  simp [decodeFields, hne]

/-- An assigned opcode decodes to its command with the operand of the fields, unless an unused field is set. -/
theorem decodeFields_opcode (i : Instr) (n : BitVec 2) (imm : Byte) :
    decodeFields (opcode i) n imm =
      if n &&& i.nMask = 0#2 ∧ imm &&& i.imm8Mask = 0#8 then .command (i.withOperands n imm)
      else .illegal .unusedField := by
  have hn : n &&& 3#2 = n := BitVec.and_allOnes
  have hi : imm &&& 0xFF#8 = imm := BitVec.and_allOnes
  cases i <;>
    simp [decodeFields, opcode, plainCommand, Instr.nMask, Instr.imm8Mask, Instr.withOperands, hn, hi]

/-! ### Decode and encode -/

/-- A legal word carries the fields of its command (R84). -/
theorem fields_of_decodeFields {opc : Byte} {n : BitVec 2} {imm : Byte} {i : Instr}
    (h : decodeFields opc n imm = .command i) :
    i.wf = true ∧ opcode i = opc ∧ nOf i = n ∧ imm8Of i = imm := by
  by_cases ha : opc.toNat < 0x0B
  · obtain ⟨j, -, rfl⟩ := exists_opcode_eq ha
    rw [decodeFields_opcode] at h
    split_ifs at h with hf
    obtain ⟨hn, hi⟩ := hf
    obtain rfl : j.withOperands n imm = i := Decoded.command.inj h
    exact ⟨j.wf_withOperands n imm, opcode_withOperands j n imm, nOf_withOperands hn, imm8Of_withOperands hi⟩
  · rw [decodeFields_reserved ha] at h
    cases h

theorem decode_encode {i : Instr} (h : i.wf = true) : decode (encode i) = .command i := by
  obtain ⟨ho, hr, hn, hi⟩ := EncodedFields.statement i
  rw [decode, if_neg (not_not.mpr hr), ho, hn, hi, decodeFields_opcode,
    if_pos ⟨nOf_and_nMask i, imm8Of_and_imm8Mask i⟩, Instr.withOperands_fields h]

/-- A word is legal exactly as the word of a well-formed command, and of one only (R84). -/
theorem decode_eq_command {v : Word} {i : Instr} : decode v = .command i ↔ i.wf = true ∧ encode i = v := by
  refine ⟨fun h => ?_, fun ⟨hw, he⟩ => he ▸ decode_encode hw⟩
  unfold decode at h
  split_ifs at h with hr
  obtain ⟨hw, ho, hn, hi⟩ := fields_of_decodeFields h
  refine ⟨hw, ?_⟩
  rw [← word_eq_append_fields v, not_not.mp hr, ← ho, ← hn, ← hi]
  rfl

/-- A legal word has RSV = 0 and carries the fields of its command (R84). -/
theorem fields_of_decode {v : Word} {i : Instr} (h : decode v = .command i) :
    opcField v = opcode i ∧ rsvField v = 0#14 ∧ nField v = nOf i ∧ imm8Field v = imm8Of i := by
  obtain ⟨-, rfl⟩ := decode_eq_command.mp h
  exact EncodedFields.statement i

/-! ### The match and mask table -/

/-- The row of a command: OPC and RSV are compared whole, N and IMM8 where the opcode does not use them. -/
def Instr.row (i : Instr) : OpcodeRow where
  mnemonic := i.mnemonic
  value := opcode i ++ 0#14 ++ 0#2 ++ 0#8
  mask := 0xFF#8 ++ 0x3FFF#14 ++ i.nMask ++ i.imm8Mask

@[simp] theorem Instr.row_withOperands (i : Instr) (n : BitVec 2) (imm : Byte) :
    (i.withOperands n imm).row = i.row := by
  cases i <;> rfl

theorem opcodeRows_eq : opcodeRows = opcodeCommands.map Instr.row := rfl

theorem mem_opcodeRows {r : OpcodeRow} : r ∈ opcodeRows ↔ ∃ i : Instr, i.row = r := by
  rw [opcodeRows_eq, List.mem_map]
  refine ⟨fun ⟨i, _, hr⟩ => ⟨i, hr⟩, fun ⟨i, hr⟩ => ⟨i.withOperands 0#2 0#8, ?_, by simpa using hr⟩⟩
  cases i <;> simp [opcodeCommands, Instr.withOperands]

/-- Two words are equal when their four fields are (R81). -/
theorem word_ext_iff {v w : Word} : v = w ↔ opcField v = opcField w ∧ rsvField v = rsvField w ∧
    nField v = nField w ∧ imm8Field v = imm8Field w := by
  refine ⟨fun h => h ▸ ⟨rfl, rfl, rfl, rfl⟩, fun ⟨ho, hr, hn, hi⟩ => ?_⟩
  rw [← word_eq_append_fields v, ho, hr, hn, hi, word_eq_append_fields]

section
variable (v w : Word)

theorem opcField_and : opcField (v &&& w) = opcField v &&& opcField w := BitVec.extractLsb'_and
theorem rsvField_and : rsvField (v &&& w) = rsvField v &&& rsvField w := BitVec.extractLsb'_and
theorem nField_and : nField (v &&& w) = nField v &&& nField w := BitVec.extractLsb'_and
theorem imm8Field_and : imm8Field (v &&& w) = imm8Field v &&& imm8Field w := BitVec.extractLsb'_and

end

/-- A word matches the row of a command when it has its opcode, RSV = 0 and nothing in the unused fields. -/
theorem covers_row {i : Instr} {v : Word} : i.row.covers v = true ↔
    opcField v = opcode i ∧ rsvField v = 0#14 ∧ nField v &&& i.nMask = 0#2 ∧
      imm8Field v &&& i.imm8Mask = 0#8 := by
  obtain ⟨vo, vr, vn, vi⟩ := EncodedFields.fields_of_append (opcode i) 0#14 0#2 0#8
  obtain ⟨mo, mr, mn, mi⟩ := EncodedFields.fields_of_append 0xFF#8 0x3FFF#14 i.nMask i.imm8Mask
  have ho : opcField v &&& 0xFF#8 = opcField v := BitVec.and_allOnes
  have hr : rsvField v &&& 0x3FFF#14 = rsvField v := BitVec.and_allOnes
  rw [OpcodeRow.covers, beq_iff_eq, word_ext_iff, opcField_and, rsvField_and, nField_and, imm8Field_and,
    Instr.row, vo, vr, vn, vi, mo, mr, mn, mi, ho, hr]

/-- A word that matches the row of a command decodes to the command of that opcode. -/
theorem decode_of_covers_row {i : Instr} {v : Word} (h : i.row.covers v = true) :
    decode v = .command (i.withOperands (nField v) (imm8Field v)) := by
  obtain ⟨ho, hr, hn, hi⟩ := covers_row.mp h
  rw [decode, if_neg (not_not.mpr hr), ho, decodeFields_opcode, if_pos ⟨hn, hi⟩]

theorem covers_row_of_decode {i : Instr} {v : Word} (h : decode v = .command i) : i.row.covers v = true := by
  obtain ⟨ho, hr, hn, hi⟩ := fields_of_decode h
  exact covers_row.mpr ⟨ho, hr, hn ▸ nOf_and_nMask i, hi ▸ imm8Of_and_imm8Mask i⟩

/-! ### The legal words -/

/-- The well-formed commands that do not use IMM8: one word each, but four for UPDW (R84). -/
def commandsWithoutImm8 : List Instr :=
  [.nop, .revbits, .bswap, .tbuild, .ainit, .aload, .updw 1, .updw 2, .updw 3, .updw 4, .final, .clrerr]

/-- The well-formed commands. -/
def legalCommands : List Instr :=
  commandsWithoutImm8 ++ (List.range Config.tableSize).map .tread ++
    (List.finRange (2 ^ 8)).map fun b => .updb (.ofFin b)

theorem legalCommands_length : legalCommands.length = 12 + 256 + 256 := by
  simp [legalCommands, commandsWithoutImm8, Config.tableSize]

theorem mem_legalCommands {i : Instr} : i ∈ legalCommands ↔ i.wf = true := by
  cases i with
  | updw c =>
    have hc : (c = 1 ∨ c = 2 ∨ c = 3 ∨ c = 4) ↔ 1 ≤ c ∧ c ≤ 4 := by omega
    simpa [legalCommands, commandsWithoutImm8, Instr.wf] using hc
  | nop | revbits | bswap | tbuild | tread | ainit | aload | updb | final | clrerr =>
    simp [legalCommands, commandsWithoutImm8, Instr.wf]

theorem legalCommands_nodup : legalCommands.Nodup := by
  have hw : commandsWithoutImm8.Nodup := by decide
  have ht : ((List.range Config.tableSize).map Instr.tread).Nodup :=
    List.nodup_range.map fun _ _ => Instr.tread.inj
  have hb : ((List.finRange (2 ^ 8)).map fun b => Instr.updb (.ofFin b)).Nodup :=
    (List.nodup_finRange _).map fun _ _ h => BitVec.ofFin.inj (Instr.updb.inj h)
  refine (hw.append ht ?_).append hb ?_
  · simp [List.Disjoint, commandsWithoutImm8]
  · simp [List.Disjoint, commandsWithoutImm8]

/-- The word of a command determines the command, if it is well-formed (R84). -/
theorem encode_injOn {i j : Instr} (hi : i.wf = true) (hj : j.wf = true) (h : encode i = encode j) : i = j := by
  have hd : Decoded.command i = .command j := by rw [← decode_encode hi, h, decode_encode hj]
  exact Decoded.command.inj hd

/-- The words of the well-formed commands, which are the legal words (R84). -/
def legalWords : List Word := legalCommands.map encode

theorem legalWords_length : legalWords.length = 524 := by
  rw [legalWords, List.length_map, legalCommands_length]

theorem legalWords_nodup : legalWords.Nodup :=
  legalCommands_nodup.map_on fun _ hi _ hj =>
    encode_injOn (mem_legalCommands.mp hi) (mem_legalCommands.mp hj)

theorem mem_legalWords {v : Word} : v ∈ legalWords ↔ ∃ i, decode v = .command i := by
  simp only [legalWords, List.mem_map, mem_legalCommands, decode_eq_command]

/-! ### The illegal words -/

/-- No command's fields are those of a word that R85 calls illegal. -/
theorem opcode_lt_and_unused_fields_zero (i : Instr) :
    (opcode i).toNat < 0x0B ∧
    ((opcode i = 0x04#8 ∨ opcode i = 0x07#8) → nOf i = 0#2) ∧
    (opcode i = 0x08#8 → imm8Of i = 0#8) ∧
    (opcode i ≠ 0x04#8 → opcode i ≠ 0x07#8 → opcode i ≠ 0x08#8 → nOf i = 0#2 ∧ imm8Of i = 0#8) := by
  cases i <;> simp [opcode, nOf, imm8Of]

end Sys2Proof

open Sys2Proof Sys2Proof.Machine

/-- Settles O5: a legal word is the word of one well-formed command, and it matches the row of that command
alone. -/
theorem legalWordsAreTheMaskRows : Obligations.LegalWordsAreTheMaskRows := by
  refine ⟨fun v i h => ?_, fun v i h => ?_, fun v r hr h => ?_, fun v r hr r' hr' h h' => ?_, ?_⟩
  · obtain ⟨ho, -, hn, hi⟩ := fields_of_decode h
    exact ⟨ho.symm, hn.symm, hi.symm⟩
  · exact ⟨i.row, mem_opcodeRows.mpr ⟨i, rfl⟩, covers_row_of_decode h, rfl⟩
  · obtain ⟨i, rfl⟩ := mem_opcodeRows.mp hr
    exact ⟨_, decode_of_covers_row h, i.mnemonic_withOperands _ _⟩
  · obtain ⟨i, rfl⟩ := mem_opcodeRows.mp hr
    obtain ⟨j, rfl⟩ := mem_opcodeRows.mp hr'
    have hij := (decode_of_covers_row h).symm.trans (decode_of_covers_row h')
    simpa using congrArg Instr.row (Decoded.command.inj hij)
  · exact ⟨legalWords, legalWords_nodup, legalWords_length, fun _ => mem_legalWords.symm⟩

/-- Settles O6: no command has the fields of such a word, so decode answers ILLEGAL, and the first-error rule
is `recordError`'s. -/
theorem illegalWordRecordsAndDrops : Obligations.IllegalWordRecordsAndDrops := by
  intro v s hv hs
  cases hd : decode v with
  | illegal why =>
    rw [issue_illegal hs hd, cmdError, recordError_eq]
    rfl
  | command i =>
    obtain ⟨ho, hr, hn, hi⟩ := fields_of_decode hd
    obtain ⟨hlt, htb, hw, hp⟩ := opcode_lt_and_unused_fields_zero i
    rw [ho, hr, hn, hi] at hv
    rcases hv with hge | hne | ⟨hop, hne⟩ | ⟨hop, hne⟩ | ⟨h4, h7, h8, hne⟩
    · exact absurd hlt (Nat.not_lt.mpr hge)
    · exact absurd rfl hne
    · exact absurd (htb hop) hne
    · exact absurd (hw hop) hne
    · obtain ⟨hn0, hi0⟩ := hp h4 h7 h8
      exact absurd hi0 (hne.resolve_left (not_not.mpr hn0))

end

section
/-! SUPPORT. A well-formed command issued while Building is dropped, and each transform of the bit-reversal unit
is its own inverse (spec/40_bitreverse.md R100, R101, spec/60_exceptions.md R162). -/

namespace Sys2Proof.Machine

/-! ### Commands issued while Building -/

/-- OVERRUN is checked before a command does anything (R80). -/
theorem exec_building {i : Instr} {s : State} (hw : i.wf = true) (h : s.tstate = .building) :
    exec i s = .next (cmdError .overrun s) := by
  cases i with
  | tread k => rw [exec_tread s (of_decide_eq_true hw), issueTable_building _ _ h]
  | updb b => exact issueTable_building _ _ h
  | updw c =>
    obtain ⟨h1, h4⟩ : 1 ≤ c ∧ c ≤ 4 := by simpa [Instr.wf] using hw
    rw [exec_updw s h1 h4, issueTable_building _ _ h]
  | tbuild => exact exec_tbuild_building s h
  | nop | revbits | bswap | ainit | aload | final | clrerr =>
    simp only [exec_nop, exec_revbits, exec_bswap, exec_ainit, exec_aload, exec_final, exec_clrerr,
      issueDirect_building _ h]

/-- R162, as each command's section states it. -/
theorem droppedWhileBuilding_of_wf {i : Instr} (hw : i.wf = true) : DroppedWhileBuilding i := by
  intro s h
  rw [exec_building hw h, cmdError, recordError_eq]
  rfl

/-! ### The transforms -/

/-- Bit i comes from bit 31 - i, and that from bit 31 - (31 - i) = i (R100). -/
theorem reverseBits_reverseBits (x : Word) : reverseBits (reverseBits x) = x := by
  refine BitVec.eq_of_getLsbD_eq fun i hi => ?_
  have hback : 31 - (31 - i) = i := by omega
  rw [getLsbD_reverseBits _ i hi, getLsbD_reverseBits x (31 - i) (by omega), hback]

/-- A word is the concatenation of its four bytes (R9). -/
theorem word_eq_append_bytes (x : Word) : byteOf x 3 ++ byteOf x 2 ++ byteOf x 1 ++ byteOf x 0 = x := by
  have h2 : byteOf x 3 ++ byteOf x 2 = x.extractLsb' 16 16 :=
    BitVec.extractLsb'_append_extractLsb'_eq_extractLsb' rfl
  have h1 : x.extractLsb' 16 16 ++ byteOf x 1 = x.extractLsb' 8 24 :=
    BitVec.extractLsb'_append_extractLsb'_eq_extractLsb' rfl
  have h0 : x.extractLsb' 8 24 ++ byteOf x 0 = x.extractLsb' 0 32 :=
    BitVec.extractLsb'_append_extractLsb'_eq_extractLsb' rfl
  rw [h2, h1, h0, BitVec.extractLsb'_eq_self]

/-- The four bytes of a concatenation, the last one lowest (R9). -/
theorem byteOf_append (a b c d : Byte) :
    byteOf (a ++ b ++ c ++ d) 0 = d ∧ byteOf (a ++ b ++ c ++ d) 1 = c ∧
      byteOf (a ++ b ++ c ++ d) 2 = b ∧ byteOf (a ++ b ++ c ++ d) 3 = a := by
  refine ⟨?_, ?_, ?_, ?_⟩
  · exact BitVec.extractLsb'_append_eq_right
  · rw [byteOf, BitVec.extractLsb'_append_eq_of_le (by decide)]
    exact BitVec.extractLsb'_append_eq_right
  · rw [byteOf, BitVec.extractLsb'_append_eq_of_le (by decide), BitVec.extractLsb'_append_eq_of_le (by decide)]
    exact BitVec.extractLsb'_append_eq_right
  · rw [byteOf, BitVec.extractLsb'_append_eq_of_le (by decide), BitVec.extractLsb'_append_eq_of_le (by decide)]
    exact BitVec.extractLsb'_append_eq_left

/-- Laying the bytes out in the other order twice lays them out in the first order (R101). -/
theorem reverseByteOrder_reverseByteOrder (x : Word) : reverseByteOrder (reverseByteOrder x) = x := by
  obtain ⟨h0, h1, h2, h3⟩ := byteOf_append (byteOf x 0) (byteOf x 1) (byteOf x 2) (byteOf x 3)
  rw [← reverseByteOrder] at h0 h1 h2 h3
  rw [reverseByteOrder, h0, h1, h2, h3, word_eq_append_bytes]

end Sys2Proof.Machine

open Sys2Proof Sys2Proof.Machine

/-- Settles O16: `issueDirect` decides whether REVBITS runs, and the bits of RES are those of `reverseBits`. -/
theorem revbitsReversesOpnd : Obligations.RevbitsReversesOpnd := by
  refine ⟨decode_encode (i := .revbits) rfl, fun s hs => ?_, droppedWhileBuilding_of_wf rfl,
    reverseBits_reverseBits⟩
  refine ⟨reverseBits s.opnd, getLsbD_reverseBits s.opnd, ?_⟩
  rw [exec_revbits, issueDirect_ready _ hs]
  rfl

/-- Settles O17: `issueDirect` decides whether BSWAP runs, and RES is the concatenation that defines
`reverseByteOrder`. -/
theorem bswapReversesByteOrder : Obligations.BswapReversesByteOrder := by
  refine ⟨decode_encode (i := .bswap) rfl, fun s hs => ?_, droppedWhileBuilding_of_wf rfl,
    reverseByteOrder_reverseByteOrder⟩
  rw [exec_bswap, issueDirect_ready _ hs]
  rfl

end

section
/-! SUPPORT. The two commands of the accumulator that need no table, by their values and without
`issueDirect`, and a sequence of commands whose first one completes (spec/42_accumulator.md R130, R135). -/

namespace Sys2Proof.Machine

/-- R130: AINIT runs in every state that is not Building, Unbuilt included. -/
theorem exec_ainit_ready {s : State} (h : s.tstate ≠ .building) :
    exec .ainit s = .next (setAcc Config.initAcc s) := by
  rw [exec_ainit, issueDirect_ready _ h]

/-- R135: FINAL runs in every state that is not Building, Unbuilt included. -/
theorem exec_final_ready {s : State} (h : s.tstate ≠ .building) :
    exec .final s = .next (setRes (s.acc ^^^ Config.xorOut) s) := by
  rw [exec_final, issueDirect_ready _ h]

@[simp] theorem runCommands_nil (s : State) : runCommands [] s = .next s := rfl

/-- A command that completes hands its end state to the rest of the sequence. -/
theorem runCommands_cons_of_next {i : Instr} {s t : State} (is : List Instr) (h : exec i s = .next t) :
    runCommands (i :: is) s = runCommands is t := by
  rw [runCommands, h, andThen_next]

/-- R138: INIT and XOROUT are the same word, so complementing a fresh accumulator gives 0. -/
theorem initAcc_xor_xorOut : Config.initAcc ^^^ Config.xorOut = 0x00000000#32 := BitVec.xor_self

end Sys2Proof.Machine

open Sys2Proof Sys2Proof.Machine

/-- Settles O20: outside Building AINIT only sets ACC; in Building it is dropped like every command. -/
theorem ainitCreatesTheAccumulator : Obligations.AinitCreatesTheAccumulator :=
  ⟨decode_encode (i := .ainit) rfl, fun _ hs => exec_ainit_ready hs, droppedWhileBuilding_of_wf rfl⟩

/-- Settles O24: outside Building FINAL only sets RES; in Building it is dropped like every command. -/
theorem finalComplementsAcc : Obligations.FinalComplementsAcc :=
  ⟨decode_encode (i := .final) rfl, fun _ hs => exec_final_ready hs, droppedWhileBuilding_of_wf rfl⟩

/-- Settles O49: AINIT leaves TSTATE as it was, so FINAL runs too and complements INIT. -/
theorem emptyInputIsZero : Obligations.EmptyInputIsZero := by
  refine ⟨initAcc_xor_xorOut, fun s hs => ?_⟩
  have hready : (setAcc Config.initAcc s).tstate ≠ .building := by rwa [setAcc_tstate]
  rw [runCommands_cons_of_next _ (exec_ainit_ready hs), runCommands_cons_of_next _ (exec_final_ready hready),
    runCommands_nil, setAcc_acc, initAcc_xor_xorOut]
  rfl

end

section
/-! SUPPORT. The two control commands outside Building, without `issueDirect`, and the words with OPC = 0
(spec/43_control.md R150, R151). -/

namespace Sys2Proof.Machine

/-- R150: NOP runs in every state that is not Building, Unbuilt included. -/
theorem exec_nop_ready {s : State} (h : s.tstate ≠ .building) : exec .nop s = .next s := by
  rw [exec_nop, issueDirect_ready _ h]

/-- R151: CLRERR runs in every state that is not Building, Unbuilt included. -/
theorem exec_clrerr_ready {s : State} (h : s.tstate ≠ .building) : exec .clrerr s = .next (clearError s) := by
  rw [exec_clrerr, issueDirect_ready _ h]

/-- NOP alone has the opcode 0 (R83). -/
theorem eq_nop_of_opcode_eq_zero {i : Instr} (h : opcode i = 0x00#8) : i = .nop := by
  cases i with
  | nop => rfl
  | revbits | bswap | tbuild | tread | ainit | aload | updb | updw | final | clrerr => simp [opcode] at h

/-- A legal word with OPC = 0 is the word of NOP, which is 0 (R84). -/
theorem eq_zero_of_decode_of_opcField_eq_zero {v : Word} {i : Instr} (hd : decode v = .command i)
    (ho : opcField v = 0x00#8) : v = 0x00000000#32 := by
  obtain ⟨hop, -⟩ := fields_of_decode hd
  obtain rfl : i = .nop := eq_nop_of_opcode_eq_zero (hop.symm.trans ho)
  obtain ⟨-, he⟩ := decode_eq_command.mp hd
  exact he.symm

end Sys2Proof.Machine

open Sys2Proof Sys2Proof.Machine

/-- Settles O15: outside Building NOP hands back its state; in Building it is dropped like every command; a
legal word with OPC = 0 is the word 0. -/
theorem nopChangesNothing : Obligations.NopChangesNothing := by
  refine ⟨decode_encode (i := .nop) rfl, fun _ hs => exec_nop_ready hs, droppedWhileBuilding_of_wf rfl,
    fun v ho hne => ?_⟩
  cases hd : decode v with
  | illegal why => exact ⟨why, rfl⟩
  | command i => exact absurd (eq_zero_of_decode_of_opcField_eq_zero hd ho) hne

/-- Settles O25: outside Building CLRERR only clears ERRCODE; in Building it is dropped like every command. -/
theorem clrerrClearsTheRecord : Obligations.ClrerrClearsTheRecord :=
  ⟨decode_encode (i := .clrerr) rfl, fun _ hs => exec_clrerr_ready hs, droppedWhileBuilding_of_wf rfl⟩

end

section
/-! SUPPORT. The encodings: the round trips between words and commands, and the words of the assembler
(spec/30_encoding.md R83, R84, R88). -/

namespace Sys2Proof

open Sys2Proof.Machine

/-- A word with IMM8 = 0 takes a byte into IMM8 by OR (R81). -/
theorem append_eq_or_setWidth (x : BitVec 24) (b : Byte) : x ++ b = (x ++ 0#8) ||| b.setWidth 32 := by
  refine BitVec.eq_of_getLsbD_eq fun i hi => ?_
  simp only [BitVec.getLsbD_or, BitVec.getLsbD_append, BitVec.getLsbD_setWidth, BitVec.getLsbD_zero]
  by_cases h : i < 8
  · simp [h, hi]
  · simp [h, BitVec.getLsbD_of_ge b i (by omega)]

theorem encode_updb (b : Byte) : encode (.updb b) = 0x07000000#32 ||| b.setWidth 32 :=
  append_eq_or_setWidth (0x07#8 ++ 0#14 ++ 0#2) b

theorem encode_tread {k : Nat} (hk : k < 256) : encode (.tread k) = 0x04000000#32 ||| BitVec.ofNat 32 k := by
  have hw : (BitVec.ofNat 8 k).setWidth 32 = BitVec.ofNat 32 k := by
    rw [BitVec.setWidth_ofNat_of_le_of_lt (by decide) hk]
  exact hw ▸ append_eq_or_setWidth (0x04#8 ++ 0#14 ++ 0#2) (BitVec.ofNat 8 k)

theorem encode_updw {c : Nat} (h1 : 1 ≤ c) (h4 : c ≤ 4) :
    encode (.updw c) = 0x08000000#32 ||| BitVec.ofNat 32 (c - 1) <<< 8 := by
  interval_cases c <;> rfl

/-- The assembler makes the word of a well-formed command. -/
theorem assemble_of_wf {i : Instr} (h : i.wf = true) : assemble i = some (encode i) := if_pos h

/-- The assembler rejects an operand out of range. -/
theorem assemble_of_not_wf {i : Instr} (h : ¬ i.wf = true) : assemble i = none := if_neg h

theorem Instr.wf_tread {k : Nat} : (Instr.tread k).wf = true ↔ k < 256 := decide_eq_true_iff

theorem Instr.wf_updw {c : Nat} : (Instr.updw c).wf = true ↔ 1 ≤ c ∧ c ≤ 4 := by
  simp [Instr.wf]

end Sys2Proof

open Sys2Proof Sys2Proof.Machine

/-- Settles O3: the fields of the word of `i` are those of `i`, and a well-formed command is determined by its
fields. -/
theorem decodeEncodeRoundTrip : Obligations.DecodeEncodeRoundTrip := fun _ h => decode_encode h

/-- Settles O4: a legal word has RSV = 0 and the fields of its command. -/
theorem encodeDecodeRoundTrip : Obligations.EncodeDecodeRoundTrip := fun _ _ h => decode_eq_command.mp h

/-- Settles O1: each word is the encoding of its command. -/
theorem decodeOfSpecWords : Obligations.DecodeOfSpecWords :=
  ⟨decode_encode (i := .nop) rfl, decode_encode (i := .revbits) rfl, decode_encode (i := .bswap) rfl,
    decode_encode (i := .tbuild) rfl, decode_encode (i := .tread 0) rfl, decode_encode (i := .tread 255) rfl,
    decode_encode (i := .ainit) rfl, decode_encode (i := .aload) rfl, decode_encode (i := .updb 0x31#8) rfl,
    decode_encode (i := .updw 1) rfl, decode_encode (i := .updw 4) rfl, decode_encode (i := .final) rfl,
    decode_encode (i := .clrerr) rfl⟩

/-- Settles O2: the assembler makes the encoding of a well-formed command, whose operand is OR'ed into the word
of its opcode. -/
theorem assemblerWords : Obligations.AssemblerWords := by
  refine ⟨rfl, rfl, rfl, rfl, rfl, rfl, rfl, rfl, fun k => ?_, fun b => ?_, fun c => ?_⟩
  · split_ifs with hk
    · rw [assemble_of_wf (Instr.wf_tread.mpr hk), encode_tread hk]
    · exact assemble_of_not_wf (mt Instr.wf_tread.mp hk)
  · rw [assemble_of_wf rfl, encode_updb]
  · split_ifs with hc
    · rw [assemble_of_wf (Instr.wf_updw.mpr hc), encode_updw hc.1 hc.2]
    · exact assemble_of_not_wf (mt Instr.wf_updw.mp hc)

/-- Settles O51: `assembleText` evaluated on each text. -/
theorem assemblerText : Obligations.AssemblerText := by
  unfold Obligations.AssemblerText
  decide

end

section
/-! SUPPORT. The constructor's micro-sequence from its start: it never faults, each micro-step up to the 256th
lists one entry more, and it ends with the reference table (spec/41_table.md R113). -/

namespace Sys2Proof.Machine

/-! ### Each micro-step lists at most one entry more -/

theorem Memory.length_write_le (t : Memory) (k : Nat) (v : Word) : (t.write k v).length ≤ t.length + 1 := by
  induction t with
  | nil => simp [Memory.write]
  | cons p t ih =>
    obtain ⟨j, w⟩ := p
    unfold Memory.write
    split_ifs
    · simp
    · simp
    · simpa using ih

theorem writeTbl_length_le {t t' : Memory} {k : Nat} {v : Word} (h : writeTbl t k v = .ok t') :
    t'.length ≤ t.length + 1 := by
  obtain ⟨-, rfl⟩ := writeTbl_eq_ok.mp h
  exact Memory.length_write_le t k v

theorem microStep_length_le {q : Sequencer} {t : Memory} {p : Sequencer × Memory}
    (h : microStep q t = .ok p) : p.2.length ≤ t.length + 1 := by
  cases q with
  | beforeStep0 =>
    simp only [microStep] at h
    split at h
    · cases h
      exact writeTbl_length_le ‹_›
    · cases h
  | writing rp cstep ci cj =>
    simp only [microStep] at h
    split at h
    · split at h
      · cases h
        exact writeTbl_length_le ‹_›
      · cases h
    · cases h
  | finished =>
    cases h
    exact Nat.le_succ _

theorem runMicro_length_le {n : Nat} {q : Sequencer} {t : Memory} {p : Sequencer × Memory}
    (h : runMicro n q t = .ok p) : p.2.length ≤ t.length + n := by
  induction n generalizing q t with
  | zero =>
    cases h
    exact Nat.le_refl _
  | succ n ih =>
    rw [runMicro_succ] at h
    split at h
    · rename_i p' hp
      have h1 : p'.2.length ≤ t.length + 1 := microStep_length_le hp
      have hn := ih h
      omega
    · cases h

/-! ### The whole sequence -/

/-- R113 evaluated: 256 micro-steps finish the sequence and leave the table T. -/
theorem runMicro_tableSize :
    runMicro Config.tableSize .beforeStep0 [] = .ok (.finished, referenceMemory) := by
  rw [referenceMemory_eq_listed]; decide +kernel

theorem referenceMemory_length : referenceMemory.length = Config.tableSize := by
  simp [referenceMemory, referenceTable_length]

/-- A run of micro-steps that succeeds succeeds at every point on its way. -/
theorem runMicro_split {n m : Nat} {q : Sequencer} {t : Memory} {r : Sequencer × Memory}
    (h : runMicro (n + m) q t = .ok r) :
    ∃ p, runMicro n q t = .ok p ∧ runMicro m p.1 p.2 = .ok r := by
  rw [runMicro_add] at h
  split at h
  · exact ⟨_, ‹_›, h⟩
  · cases h

/-- After 256 micro-steps no number of further ones changes anything. -/
theorem runMicro_tableSize_add (n : Nat) :
    runMicro (Config.tableSize + n) .beforeStep0 [] = .ok (.finished, referenceMemory) := by
  rw [runMicro_add, runMicro_tableSize]
  exact runMicro_finished n referenceMemory

/-- No number of micro-steps from the start faults. -/
theorem runMicro_start (n : Nat) : ∃ p, runMicro n .beforeStep0 [] = .ok p := by
  have h := runMicro_tableSize_add n
  rw [Nat.add_comm] at h
  obtain ⟨p, hp, -⟩ := runMicro_split h
  exact ⟨p, hp⟩

/-- The first 256 micro-steps list one entry each: one that listed none would leave the whole sequence with fewer
than 256 entries. -/
theorem runMicro_start_length {k : Nat} {p : Sequencer × Memory} (hk : k ≤ Config.tableSize)
    (h : runMicro k .beforeStep0 [] = .ok p) : p.2.length = k := by
  obtain ⟨m, hm⟩ := Nat.exists_eq_add_of_le hk
  have hall := runMicro_tableSize
  rw [hm] at hall
  obtain ⟨p', hp', hrest⟩ := runMicro_split hall
  obtain rfl : p' = p := Except.ok.inj (hp'.symm.trans h)
  have hle : p'.2.length ≤ k := by simpa using runMicro_length_le h
  have hge : referenceMemory.length ≤ p'.2.length + m := runMicro_length_le hrest
  rw [referenceMemory_length] at hge
  omega

/-! ### From any point of the sequence -/

section
variable {k : Nat} {q : Sequencer} {t : Memory} (h : runMicro k .beforeStep0 [] = .ok (q, t))
include h

/-- From any point of the sequence any number of further micro-steps succeeds. -/
theorem runMicro_continue (m : Nat) :
    ∃ q' t', runMicro m q t = .ok (q', t') ∧ runMicro (k + m) .beforeStep0 [] = .ok (q', t') := by
  obtain ⟨⟨q', t'⟩, hr⟩ := runMicro_start (k + m)
  obtain ⟨p, hp, hm⟩ := runMicro_split hr
  obtain rfl : p = (q, t) := Except.ok.inj (hp.symm.trans h)
  exact ⟨q', t', hm, hr⟩

/-- From any point of the sequence 256 micro-steps finish it. -/
theorem runMicro_finish : runMicro Config.tableSize q t = .ok (.finished, referenceMemory) := by
  obtain ⟨q', t', hm, hr⟩ := runMicro_continue h Config.tableSize
  rw [Nat.add_comm, runMicro_tableSize_add] at hr
  rw [hm, hr]

end

end Sys2Proof.Machine

open Sys2Proof Sys2Proof.Machine

/-- Settles O36: all 256 micro-steps list 256 entries and each lists at most one, so each lists exactly one. -/
theorem microSequenceBuildsReferenceTable : Obligations.MicroSequenceBuildsReferenceTable := by
  refine ⟨fun k hk => ?_, ⟨_, _, rfl, rfl⟩, runMicro_tableSize⟩
  obtain ⟨⟨q, t⟩, h⟩ := runMicro_start k
  exact ⟨q, t, h, runMicro_start_length hk h, runMicro_wf h Memory.wf_nil⟩

end

section
/-! SUPPORT. The table RAM with the contents T: what its reads, the update rule over it and the commands that need
the table give (spec/41_table.md R117, spec/42_accumulator.md R132 to R134). -/

namespace Sys2Proof.Machine

/-! ### Reads of T -/

/-- A list laid out as table RAM from index `n` on. -/
theorem Memory.read_zipIdx (l : List Word) (n k : Nat) :
    Memory.read ((l.zipIdx n).map fun p => (p.2, p.1)) (n + k) = l[k]? := by
  induction l generalizing n k with
  | nil => rfl
  | cons v l ih =>
    cases k with
    | zero => simp [Memory.read]
    | succ k =>
      have hne : n + (k + 1) ≠ n := by omega
      have hk : n + (k + 1) = n + 1 + k := by omega
      simp only [List.zipIdx_cons, List.map_cons, Memory.read, if_neg hne, List.getElem?_cons_succ]
      rw [hk, ih]

theorem referenceMemory_read (b : Byte) : referenceMemory.read b.toNat = some (tableEntry b) := by
  have hb : b.toNat < referenceTable.length := referenceTable_length ▸ b.isLt
  have hr := Memory.read_zipIdx referenceTable 0 b.toNat
  rw [Nat.zero_add] at hr
  rw [referenceMemory, hr, tableEntry, List.getD_eq_getElem?_getD, List.getElem?_eq_getElem hb]
  rfl

@[simp] theorem readTbl_referenceMemory (b : Byte) : readTbl referenceMemory b.toNat = .ok (tableEntry b) :=
  readTbl_eq_ok.mpr ⟨b.isLt, referenceMemory_read b⟩

/-! ### The update rule over T -/

@[simp] theorem updTbl_referenceMemory (a : Word) (b : Byte) : updTbl referenceMemory a b = .ok (upd a b) := by
  simp [updTbl, upd]

@[simp] theorem foldTbl_referenceMemory (a : Word) (m : List Byte) :
    foldTbl referenceMemory a m = .ok (fold a m) := by
  induction m generalizing a with
  | nil => rfl
  | cons b m ih => rw [foldTbl_cons, updTbl_referenceMemory]; exact ih (upd a b)

/-- What a latched command does when every table read gives the entry of T (R114). -/
def Pending.effect (p : Pending) (s : State) : State :=
  match p.pcmd with
  | .tread k => setRes (tableEntry k) s
  | .updb b => setAcc (upd s.acc b) s
  | .updw n => setAcc (fold s.acc (firstBytes (byteCount n) p.popnd)) s

section
variable {s : State} (h : s.tbl = referenceMemory)
include h

theorem loadEntry_of_reference (k : Byte) : loadEntry k.toNat s = .next (setRes (tableEntry k) s) := by
  rw [loadEntry, h, readTbl_referenceMemory]

theorem foldAcc_of_reference (m : List Byte) : foldAcc m s = .next (setAcc (fold s.acc m) s) := by
  rw [foldAcc, h, foldTbl_referenceMemory]

theorem runPending_of_reference (p : Pending) : runPending p s = .next (p.effect s) := by
  obtain ⟨c, w⟩ := p
  cases c with
  | tread k => exact loadEntry_of_reference h k
  | updb b => exact foldAcc_of_reference h [b]
  | updw n => exact foldAcc_of_reference h (firstBytes (byteCount n) w)

end

/-! ### The commands in a safe Built state -/

section
variable {s : State} (hs : Safe s) (hb : s.tstate = .built)
include hs hb

theorem Safe.of_built : s.tbl = referenceMemory ∧ s.pend = none ∧ s.progress = .idle := by
  have h := hs.table
  rwa [TableConsistent, hb] at h

theorem exec_tread_safe {k : Nat} (hk : k < Config.tableSize) :
    exec (.tread k) s = .next (setRes (tableEntry (BitVec.ofNat 8 k)) s) := by
  obtain ⟨ht, -, -⟩ := hs.of_built hb
  rw [exec_tread s hk, issueTable_built _ _ hb]
  exact loadEntry_of_reference ht _

theorem exec_updb_safe (b : Byte) : exec (.updb b) s = .next (setAcc (upd s.acc b) s) := by
  obtain ⟨ht, -, -⟩ := hs.of_built hb
  rw [exec_updb, issueTable_built _ _ hb]
  exact foldAcc_of_reference ht [b]

theorem exec_updw_safe {c : Nat} (h1 : 1 ≤ c) (h4 : c ≤ 4) :
    exec (.updw c) s = .next (setAcc (fold s.acc (firstBytes c s.opnd)) s) := by
  obtain ⟨ht, -, -⟩ := hs.of_built hb
  rw [exec_updw s h1 h4, issueTable_built _ _ hb, runUpdw, byteCount_ofNat h1 h4]
  exact foldAcc_of_reference ht _

end

/-- T[0], T[128] and T[255], read off the listing. -/
theorem tableEntry_listed_ends :
    tableEntry 0#8 = 0x00000000#32 ∧ tableEntry 128#8 = rpoly ∧ tableEntry 255#8 = 0x2D02EF8D#32 := by
  simp only [tableEntry_eq_listed]; decide

end Sys2Proof.Machine

open Sys2Proof Sys2Proof.Machine

/-- Settles O26: the table RAM of a safe Built state is T, so no table read faults. -/
theorem tableCommandsCompleteWhenBuilt : Obligations.TableCommandsCompleteWhenBuilt :=
  fun _ hs hb => ⟨fun _ hk => exec_tread_safe hs hb hk, fun b => exec_updb_safe hs hb b,
    fun _ h1 h4 => exec_updw_safe hs hb h1 h4⟩

/-- Settles O44: the table RAM of a safe Built state is T. -/
theorem builtTableInvariants : Obligations.BuiltTableInvariants := by
  refine ⟨by decide, fun s hs hb => ?_⟩
  obtain ⟨ht, -, -⟩ := hs.of_built hb
  obtain ⟨h0, h128, h255⟩ := tableEntry_listed_ends
  have hread (b : Byte) : s.tbl.read b.toNat = some (tableEntry b) := ht ▸ referenceMemory_read b
  exact ⟨hread, h0 ▸ hread 0#8, h128 ▸ hread 128#8, h255 ▸ hread 255#8⟩

end

section
/-! SUPPORT. Single commands: the ones that are latched while Unbuilt, what they read of any Built table, and UPDW as a
sequence of UPDBs (spec/30_encoding.md R80, spec/41_table.md R116, R117, spec/42_accumulator.md R131 to R134). -/

namespace Sys2Proof.Machine

/-! ### Commands issued while Unbuilt or Built -/

/-- R131: ALOAD runs in every state that is not Building, Unbuilt included. -/
theorem exec_aload_ready {s : State} (h : s.tstate ≠ .building) : exec .aload s = .next (setAcc s.opnd s) := by
  rw [exec_aload, issueDirect_ready _ h]

theorem latchedWhileUnbuilt_tread {k : Nat} (hk : k < Config.tableSize) :
    LatchedWhileUnbuilt (.tread k) (.tread (BitVec.ofNat 8 k)) := by
  intro s hs
  rw [exec_tread s hk, issueTable_unbuilt _ _ hs]
  rfl

theorem latchedWhileUnbuilt_updb (b : Byte) : LatchedWhileUnbuilt (.updb b) (.updb b) := by
  intro s hs
  rw [exec_updb, issueTable_unbuilt _ _ hs]
  rfl

theorem latchedWhileUnbuilt_updw {c : Nat} (h1 : 1 ≤ c) (h4 : c ≤ 4) :
    LatchedWhileUnbuilt (.updw c) (.updw (BitVec.ofNat 2 (c - 1))) := by
  intro s hs
  rw [exec_updw s h1 h4, issueTable_unbuilt _ _ hs]
  rfl

theorem loadEntry_of_read {s : State} {k : Nat} {v : Word} (hk : k < Config.tableSize)
    (h : s.tbl.read k = some v) : loadEntry k s = .next (setRes v s) := by
  rw [loadEntry, readTbl_eq_ok.mpr ⟨hk, h⟩]

/-- Byte 0 of a word is its value AND 0xFF. -/
theorem toNat_byteOf_zero (x : Word) : (byteOf x 0).toNat = (x &&& 0xFF#32).toNat := by
  have hmask : x.toNat &&& 255 = x.toNat % 2 ^ 8 := Nat.and_two_pow_sub_one_eq_mod x.toNat 8
  simp [byteOf, hmask]

/-- The update rule when the entry it reads holds `v` (R132). -/
theorem updTbl_of_read {t : Memory} {a : Word} {b : Byte} {v : Word}
    (h : t.read (byteOf (a ^^^ b.setWidth 32) 0).toNat = some v) :
    updTbl t a b = .ok (((a ^^^ b.setWidth 32) >>> 8) ^^^ v) := by
  rw [updTbl, readTbl_eq_ok.mpr ⟨(byteOf (a ^^^ b.setWidth 32) 0).isLt, h⟩]

/-! ### UPDW as a sequence of UPDBs -/

theorem foldAcc_cons_of_ok {s : State} {b : Byte} {a : Word} (m : List Byte)
    (h : updTbl s.tbl s.acc b = .ok a) : foldAcc (b :: m) s = foldAcc m (setAcc a s) := by
  simp only [foldAcc, foldTbl_cons, h, setAcc_tbl, setAcc_acc]
  cases foldTbl s.tbl a m <;> rfl

theorem foldAcc_cons_of_error {s : State} {b : Byte} {e : Fault} (m : List Byte)
    (h : updTbl s.tbl s.acc b = .error e) : foldAcc (b :: m) s = .fault e := by
  simp only [foldAcc, foldTbl_cons, h]

/-- Folding a list of bytes into ACC is one UPDB for each, faults included (R134). -/
theorem foldAcc_eq_runCommands (m : List Byte) {s : State} (hb : s.tstate = .built) :
    foldAcc m s = runCommands (m.map .updb) s := by
  induction m generalizing s with
  | nil => rfl
  | cons b m ih =>
    have hupdb : exec (.updb b) s = foldAcc [b] s := issueTable_built _ _ hb
    rw [List.map_cons, runCommands, hupdb]
    cases hu : updTbl s.tbl s.acc b with
    | ok a =>
      rw [foldAcc_cons_of_ok m hu, foldAcc_cons_of_ok [] hu, ih (s := setAcc a s) hb]
      rfl
    | error e => rw [foldAcc_cons_of_error m hu, foldAcc_cons_of_error [] hu, andThen_fault]

end Sys2Proof.Machine

open Sys2Proof Sys2Proof.Machine

/-- Settles O18: TBUILD's three cases, and STATUS read from the fields of the state that starts the build. -/
theorem tbuildStartsTheBuildOnce : Obligations.TbuildStartsTheBuildOnce := by
  refine ⟨decode_encode (i := .tbuild) rfl, fun s hs => exec_tbuild_unbuilt s hs,
    fun s hs => exec_tbuild_built s hs, droppedWhileBuilding_of_wf rfl, fun s t hs hp he h => ?_⟩
  rw [exec_tbuild_unbuilt s hs] at h
  cases h
  simp only [statusWord, busy, pv, startBuild_tstate, startBuild_pend, startBuild_errcode, hp, he]
  rfl

/-- Settles O19: `issueTable` decides whether TREAD runs, and the load is that of the entry. -/
theorem treadReadsOneEntry : Obligations.TreadReadsOneEntry := by
  intro k hk
  have hw : (Instr.tread k).wf = true := Instr.wf_tread.mpr hk
  refine ⟨encode_tread hk ▸ decode_encode hw, fun s v hs hv => ?_, latchedWhileUnbuilt_tread hk,
    droppedWhileBuilding_of_wf hw⟩
  have hindex : (BitVec.ofNat 8 k).toNat = k := Nat.mod_eq_of_lt hk
  rw [exec_tread s hk, issueTable_built _ _ hs, runTread, hindex, loadEntry_of_read hk hv]
  rfl

/-- Settles O21: outside Building ALOAD only sets ACC; in Building it is dropped like every command. -/
theorem aloadLoadsOpnd : Obligations.AloadLoadsOpnd :=
  ⟨decode_encode (i := .aload) rfl, fun _ hs => exec_aload_ready hs, droppedWhileBuilding_of_wf rfl⟩

/-- Settles O22: `issueTable` decides whether UPDB runs, and the entry it reads is that of byte 0 of t. -/
theorem updbFoldsOneByte : Obligations.UpdbFoldsOneByte := by
  intro b
  refine ⟨encode_updb b ▸ decode_encode rfl, fun s v hs hv => ?_, latchedWhileUnbuilt_updb b,
    droppedWhileBuilding_of_wf rfl⟩
  rw [← toNat_byteOf_zero] at hv
  rw [exec_updb, issueTable_built _ _ hs, runUpdb, foldAcc_cons_of_ok [] (updTbl_of_read hv)]
  rfl

/-- Settles O23: when Built, UPDW folds the bytes of OPND, and a fold is one UPDB for each byte. -/
theorem updwIsUpdbOfItsBytes : Obligations.UpdwIsUpdbOfItsBytes := by
  intro c h1 h4
  have hw : (Instr.updw c).wf = true := Instr.wf_updw.mpr ⟨h1, h4⟩
  refine ⟨encode_updw h1 h4 ▸ decode_encode hw, fun s hs => ?_, latchedWhileUnbuilt_updw h1 h4,
    droppedWhileBuilding_of_wf hw⟩
  rw [exec_updw s h1 h4, issueTable_built _ _ hs, runUpdw, byteCount_ofNat h1 h4, foldAcc_eq_runCommands _ hs,
    firstBytes, List.map_map]
  rfl

end

section
/-! SUPPORT. Which terms are refused, and the frame of every command, field by field (spec/30_encoding.md R88,
spec/10_state.md R21 to R24). -/

namespace Sys2Proof.Machine

/-! ### Refusals -/

theorem foldAcc_ne_refused (m : List Byte) (s : State) (e : Refusal) : foldAcc m s ≠ .refused e := by
  unfold foldAcc
  split <;> simp

theorem loadEntry_ne_refused (k : Nat) (s : State) (e : Refusal) : loadEntry k s ≠ .refused e := by
  unfold loadEntry
  split <;> simp

theorem issueDirect_ne_refused {s : State} {run : State → Result} {e : Refusal} (h : run s ≠ .refused e) :
    issueDirect s run ≠ .refused e := by
  unfold issueDirect
  split <;> simp_all

theorem issueTable_ne_refused {s : State} {c : LatchedCmd} {run : State → Result} {e : Refusal}
    (h : run s ≠ .refused e) : issueTable c s run ≠ .refused e := by
  unfold issueTable
  split <;> simp_all

/-- A command that a word encodes is not refused (R88). -/
theorem exec_ne_refused {i : Instr} (hw : i.wf = true) (s : State) (e : Refusal) : exec i s ≠ .refused e := by
  cases i with
  | tbuild =>
    cases hs : s.tstate with
    | unbuilt => simp [exec_tbuild_unbuilt s hs]
    | building => simp [exec_tbuild_building s hs]
    | built => simp [exec_tbuild_built s hs]
  | tread k =>
    rw [exec_tread s (Instr.wf_tread.mp hw)]
    exact issueTable_ne_refused (loadEntry_ne_refused _ s e)
  | updb b =>
    rw [exec_updb]
    exact issueTable_ne_refused (foldAcc_ne_refused _ s e)
  | updw c =>
    obtain ⟨h1, h4⟩ := Instr.wf_updw.mp hw
    rw [exec_updw s h1 h4]
    exact issueTable_ne_refused (foldAcc_ne_refused _ s e)
  | nop | revbits | bswap | ainit | aload | final | clrerr =>
    simp only [exec_nop, exec_revbits, exec_bswap, exec_ainit, exec_aload, exec_final, exec_clrerr]
    exact issueDirect_ne_refused nofun

/-- An operand that no word encodes is refused by name (R88; log entry 11). -/
theorem exec_refused_of_not_wf {i : Instr} (hw : i.wf = false) (s : State) : ∃ e, exec i s = .refused e := by
  cases i with
  | tread k => exact ⟨_, if_neg (of_decide_eq_false hw)⟩
  | updw c =>
    have hc : ¬ (1 ≤ c ∧ c ≤ 4) := fun h => by simp [Instr.wf_updw.mpr h] at hw
    exact ⟨_, if_neg hc⟩
  | nop | revbits | bswap | tbuild | ainit | aload | updb | final | clrerr => cases hw

/-! ### The frame -/

section
variable {i : Instr} {s t : State} (h : exec i s = .next t)
include h

/-- What no command writes (R21, R22, R32). -/
theorem exec_frame : t.opnd = s.opnd ∧ t.tbl = s.tbl ∧ t.inputs = s.inputs ∧ t.rsp = s.rsp ∧
    t.buildLatency = s.buildLatency := by
  rcases exec_next h with ⟨-, rfl⟩ | ⟨-, -, rfl⟩ | ⟨_, -, -, rfl⟩ | ⟨-, rfl⟩ | ⟨-, -, rfl⟩ | ⟨_, -, -, rfl⟩ |
    ⟨_, -, -, rfl⟩ <;> exact ⟨rfl, rfl, rfl, rfl, rfl⟩

theorem exec_acc_ne (hne : t.acc ≠ s.acc) : s.tstate ≠ .building ∧
    (i = .ainit ∨ i = .aload ∨ (∃ b, i = .updb b) ∨ ∃ c, i = .updw c) := by
  rcases exec_next h with ⟨-, rfl⟩ | ⟨-, -, rfl⟩ | ⟨_, -, -, rfl⟩ | ⟨-, rfl⟩ | ⟨-, -, rfl⟩ | ⟨_, -, -, rfl⟩ |
    ⟨_, hb, hi, -⟩
  case inr.inr.inr.inr.inr.inr => exact ⟨hb, hi⟩
  all_goals exact absurd rfl hne

theorem exec_res_ne (hne : t.res ≠ s.res) : s.tstate ≠ .building ∧
    (i = .revbits ∨ i = .bswap ∨ (∃ k, i = .tread k) ∨ i = .final) := by
  rcases exec_next h with ⟨-, rfl⟩ | ⟨-, -, rfl⟩ | ⟨_, -, -, rfl⟩ | ⟨-, rfl⟩ | ⟨-, -, rfl⟩ | ⟨_, hb, hi, -⟩ |
    ⟨_, -, -, rfl⟩
  case inr.inr.inr.inr.inr.inl => exact ⟨hb, hi⟩
  all_goals exact absurd rfl hne

/-- A command that starts a build has TBUILD's opcode or needs the table, and does nothing else that shows. -/
theorem exec_tstate_ne (hne : t.tstate ≠ s.tstate) :
    s.tstate = .unbuilt ∧ t.tstate = .building ∧ t.acc = s.acc ∧ t.res = s.res ∧
      (i = .tbuild ∨ (∃ k, i = .tread k) ∨ (∃ b, i = .updb b) ∨ ∃ c, i = .updw c) := by
  rcases exec_next h with ⟨-, rfl⟩ | ⟨hs, hi, rfl⟩ | ⟨_, hs, hi, rfl⟩ | ⟨-, rfl⟩ | ⟨-, -, rfl⟩ | ⟨_, -, -, rfl⟩ |
    ⟨_, -, -, rfl⟩
  case inr.inl => exact ⟨hs, rfl, rfl, rfl, .inl hi⟩
  case inr.inr.inl => exact ⟨hs, rfl, rfl, rfl, .inr hi⟩
  all_goals exact absurd rfl hne

theorem exec_latch_of_tstate_eq (heq : t.tstate = s.tstate) : t.pend = s.pend ∧ t.progress = s.progress := by
  rcases exec_next h with ⟨-, rfl⟩ | ⟨hs, -, rfl⟩ | ⟨_, hs, -, rfl⟩ | ⟨-, rfl⟩ | ⟨-, -, rfl⟩ | ⟨_, -, -, rfl⟩ |
    ⟨_, -, -, rfl⟩
  case inr.inl => simp [hs] at heq
  case inr.inr.inl => simp [hs] at heq
  all_goals exact ⟨rfl, rfl⟩

end

end Sys2Proof.Machine

open Sys2Proof Sys2Proof.Machine

/-- Settles O27: a well-formed command's issue and meaning never refuse, an ill-formed term is refused at once. -/
theorem onlyIllFormedTermsAreRefused : Obligations.OnlyIllFormedTermsAreRefused := by
  refine fun i s => ⟨fun ⟨e, he⟩ => ?_, fun hw => exec_refused_of_not_wf hw s⟩
  exact Bool.eq_false_iff.mpr fun hw => exec_ne_refused hw s e he

/-- Settles O28: the cases of `CommandEffect`, field by field. -/
theorem commandFrame : Obligations.CommandFrame := by
  intro i s t h
  obtain ⟨hopnd, htbl, hinputs, hrsp, hlat⟩ := exec_frame h
  refine ⟨hopnd, htbl, fun k => by rw [htbl], hinputs, hrsp, hlat, exec_acc_ne h, exec_res_ne h,
    exec_tstate_ne h, exec_latch_of_tstate_eq h, fun hne => ?_⟩
  by_cases hb : s.tstate = .building
  · exact .inl hb
  · obtain ⟨hi, -⟩ := exec_errcode_ne hb h hne
    exact .inr hi

end

section
/-! SUPPORT. One clock edge by what its cycle carries, and the window (spec/20_memory.md R53, R60,
spec/60_exceptions.md R162, R167, spec/70_reset_and_hazards.md R190). -/

namespace Sys2Proof.Machine

/-! ### The access of a cycle, by the cycle's request -/

theorem accessPart_none {c : Cycle} (s : State) (h : c.req = none) : accessPart c s = .next s := by
  rw [accessPart, h]

theorem accessPart_some {c : Cycle} {r : Request} (s : State) (h : c.req = some r) :
    accessPart c s = deliver r s := by
  rw [accessPart, h]

/-! ### A step by the coming cycle -/

section
variable {s : State}

theorem step_reset (h : (coming s).rst = true) : step s = .next (resetBlock (popInput s)) :=
  clockEdge_rst _ h

theorem step_access (h : (coming s).rst = false) (hc : (coming s).construct = none) :
    step s = accessPart (coming s) (popInput s) :=
  clockEdge_quiet _ h hc

theorem step_construct {m : Nat} (h : (coming s).rst = false) (hc : (coming s).construct = some m) :
    step s = Result.andThen (constructorStep m (popInput s)) (accessPart (coming s)) :=
  clockEdge_construct _ h hc

/-- A step whose cycle carries one access and nothing else. -/
theorem step_ofRequest {r : Request} (h : coming s = Cycle.ofRequest r) : step s = deliver r (popInput s) := by
  rw [step_access (by rw [h]; rfl) (by rw [h]; rfl), h]
  rfl

theorem step_cmd {v : Word} (h : coming s = Cycle.cmd v) : step s = issue v (respond .written (popInput s)) := by
  rw [step_ofRequest h, deliver_cmd]

end

/-- A CMD write's OVERRUN and ILLEGAL, with the first-error rule written out (R30). -/
theorem cmdError_respond (c : ErrCode) (s : State) : cmdError c (respond .written s) =
    { s with rsp := .written, errcode := if s.errcode = .noError then c else s.errcode } := by
  rw [cmdError, respond_errcode, recordError_eq]
  rfl

/-- Reset clears every field of STATUS. -/
theorem statusWord_resetBlock (s : State) : statusWord (resetBlock s) = 0x00000000#32 :=
  show statusWord State.reset = 0x00000000#32 from rfl

/-! ### The window -/

theorem windowOffset_inside (off : BitVec 5) : windowOffset (Config.crcBase + off.toNat) = some off := by
  have hoff : off.toNat < Config.windowBytes := off.isLt
  rw [windowOffset, if_pos ⟨Nat.le_add_right _ _, Nat.add_lt_add_left hoff _⟩, Nat.add_sub_cancel_left,
    BitVec.ofNat_toNat, BitVec.setWidth_eq]

theorem windowOffset_outside {addr : Nat} (h : addr < Config.crcBase ∨ Config.crcBase + 32 ≤ addr) :
    windowOffset addr = none := by
  refine if_neg fun ⟨hge, hlt⟩ => ?_
  rw [Config.windowBytes] at hlt
  omega

end Sys2Proof.Machine

open Sys2Proof Sys2Proof.Machine

/-- Settles O7: the access of such a cycle issues the word, after the constructor's step if there is one. -/
theorem stepIssuesDecodedCommand : Obligations.StepIssuesDecodedCommand := by
  refine ⟨fun s v i hc hs hd => ?_, fun s u v i m hc hk hu hd => ?_⟩
  · have hs' : (respond .written (popInput s)).tstate ≠ .building := hs
    rw [step_cmd hc, issue_command hs' hd]
  · have hu' : (respond .written u).tstate ≠ .building := hu
    rw [step_construct (by rw [hc]) (by rw [hc]), hk, andThen_next, accessPart_some u (by rw [hc]), deliver_cmd,
      issue_command hu' hd]

/-- Settles O8: one rule of `clockEdge`, `hostPort` or `issue` for each clause. -/
theorem priorityOrder : Obligations.PriorityOrder := by
  refine ⟨fun _ => step_reset, fun _ _ => step_construct, fun _ => step_access, fun r s => hostPort_illegal s,
    fun v s hs => ?_, fun v s why hs hd => ?_, fun v s i hs hd => ?_⟩
  · rw [hostPort_cmd, issue_building v (s := respond .written s) hs, cmdError_respond]
  · rw [hostPort_cmd, issue_illegal (s := respond .written s) hs hd, cmdError_respond]
  · rw [hostPort_cmd, issue_command (s := respond .written s) hs hd]

/-- Settles O10: the host-port step faults and `deliver` answers the fault. -/
theorem busErrorChangesNothing : Obligations.BusErrorChangesNothing := by
  refine fun r s hl => ⟨hostPort_illegal s hl, fun hc => ?_⟩
  rw [step_ofRequest hc, deliver_illegal _ hl]
  rfl

/-- Settles O11: while Building a CMD write is not decoded, and a write of OPND does not look at TSTATE. -/
theorem overrunDropsAnyWord : Obligations.OverrunDropsAnyWord := by
  refine fun s v hs => ⟨fun hc => ?_, fun hc => ?_⟩
  · rw [step_cmd hc, issue_building v (s := respond .written (popInput s)) hs, cmdError_respond]
    rfl
  · rw [step_ofRequest hc, deliver_opnd]
    rfl

/-- Settles O12: reset comes before everything else of its cycle. -/
theorem resetCycleClearsTheBlock : Obligations.ResetCycleClearsTheBlock :=
  fun s h => ⟨resetBlock (popInput s), step_reset h, rfl, rfl, rfl, rfl, rfl, rfl, rfl,
    statusWord_resetBlock _, rfl, rfl, rfl, rfl, rfl⟩

/-- Settles O13: the reset values, read off `State.reset`. -/
theorem resetStateIsSafe : Obligations.ResetStateIsSafe :=
  ⟨rfl, rfl, rfl, rfl, rfl, rfl, Memory.wf_nil, ⟨Nat.le_add_left 1 255, rfl, rfl, rfl⟩⟩

/-- Settles O14: `windowOffset` is the difference to CRC_BASE, exactly where that is below 32. -/
theorem windowIsThirtyTwoBytes : Obligations.WindowIsThirtyTwoBytes :=
  ⟨Nat.mul_mod_right _ _, windowOffset_inside, fun _ => windowOffset_outside⟩

end

section
/-! SUPPORT. STATUS by its fields (spec/10_state.md R26, R31). -/

namespace Sys2Proof.Machine

/-! ### The layout -/

/-- STATUS from the three fields that vary, BUSY following from TSTATE (R26, R29). -/
def statusOf (e : ErrCode) (pend : Bool) (t : TState) : Word :=
  0#20 ++ e.bits ++ 0#4 ++ BitVec.ofBool pend ++ BitVec.ofBool (decide (t = .building)) ++ t.bits

theorem statusWord_eq (s : State) : statusWord s = statusOf s.errcode s.pend.isSome s.tstate := rfl

section
variable (e : ErrCode) (pend : Bool) (t : TState)

theorem statusOf_tstate : (statusOf e pend t).extractLsb' 0 2 = t.bits :=
  BitVec.extractLsb'_append_eq_right

theorem statusOf_busy : (statusOf e pend t).getLsbD 2 = decide (t = .building) := by
  cases e <;> cases pend <;> cases t <;> rfl

theorem statusOf_pend : (statusOf e pend t).getLsbD 3 = pend := by
  cases e <;> cases pend <;> cases t <;> rfl

theorem statusOf_reserved_low : (statusOf e pend t).extractLsb' 4 4 = 0#4 := by
  rw [statusOf, BitVec.extractLsb'_append_eq_of_le (by decide), BitVec.extractLsb'_append_eq_of_le (by decide),
    BitVec.extractLsb'_append_eq_of_le (by decide)]
  exact BitVec.extractLsb'_append_eq_right

theorem statusOf_errcode : (statusOf e pend t).extractLsb' 8 4 = e.bits := by
  rw [statusOf, BitVec.extractLsb'_append_eq_of_le (by decide), BitVec.extractLsb'_append_eq_of_le (by decide),
    BitVec.extractLsb'_append_eq_of_le (by decide), BitVec.extractLsb'_append_eq_of_le (by decide)]
  exact BitVec.extractLsb'_append_eq_right

theorem statusOf_reserved_high : (statusOf e pend t).extractLsb' 12 20 = 0#20 := by
  rw [statusOf, BitVec.extractLsb'_append_eq_of_le (by decide), BitVec.extractLsb'_append_eq_of_le (by decide),
    BitVec.extractLsb'_append_eq_of_le (by decide), BitVec.extractLsb'_append_eq_of_le (by decide)]
  exact BitVec.extractLsb'_append_eq_left

/-- ERRCODE is OR'ed into a word that does not use its bits (R31). -/
theorem statusOf_eq_or : statusOf e pend t = statusOf .noError pend t ||| e.bits.setWidth 32 <<< 8 := by
  cases e <;> cases pend <;> cases t <;> rfl

end

end Sys2Proof.Machine

open Sys2Proof Sys2Proof.Machine

/-- Settles O29: STATUS is a concatenation, and each part of it is one field. -/
theorem statusLayout : Obligations.StatusLayout := by
  intro s
  rw [statusWord_eq]
  refine ⟨(statusOf_tstate _ _ _).trans ?_, ?_, ?_, statusOf_reserved_low _ _ _,
    (statusOf_errcode _ _ _).trans ?_, statusOf_reserved_high _ _ _⟩
  · cases s.tstate <;> rfl
  · rw [statusOf_busy, decide_eq_true_iff]
  · rw [statusOf_pend, Option.isSome_iff_ne_none]
  · cases s.errcode <;> rfl

/-- Settles O30: the invariant lets PV be 1 in Building only, which leaves four combinations of TSTATE and PV. -/
theorem reachableStatusValues : Obligations.ReachableStatusValues := by
  intro s hs
  refine ⟨statusOf .noError s.pend.isSome s.tstate, statusOf_eq_or _ _ _, ?_, ?_⟩
  · cases s.errcode <;> decide
  · have ht := hs.table
    cases hb : s.tstate with
    | unbuilt =>
      rw [TableConsistent, hb] at ht
      obtain ⟨-, hp, -⟩ := ht
      exact .inl ⟨rfl, hp, by rw [hp]; rfl⟩
    | building =>
      cases hp : s.pend with
      | none => exact .inr (.inl ⟨rfl, rfl, rfl⟩)
      | some p => exact .inr (.inr (.inl ⟨rfl, nofun, by rw [Option.isSome_some]; rfl⟩))
    | built =>
      obtain ⟨-, hp, -⟩ := hs.of_built hb
      exact .inr (.inr (.inr ⟨rfl, hp, by rw [hp]; rfl⟩))

end

section
/-! SUPPORT. The invariant `Safe`: no updates outside the table state touch it, the constructor's step and every
command answer a next state and keep it (spec/10_state.md R31, R33, spec/41_table.md R112 to R114). -/

namespace Sys2Proof.Machine

/-! ### The invariant by TSTATE -/

section
variable {s : State} (hs : Safe s)
include hs

theorem Safe.of_unbuilt (h : s.tstate = .unbuilt) : s.tbl = [] ∧ s.pend = none ∧ s.progress = .idle := by
  have ht := hs.table
  rwa [TableConsistent, h] at ht

theorem Safe.of_building (h : s.tstate = .building) :
    ∃ brem q k, s.progress = .active brem q ∧ 1 ≤ brem ∧ brem ≤ s.buildLatency ∧
      runMicro k .beforeStep0 [] = .ok (q, s.tbl) := by
  have ht := hs.table
  rwa [TableConsistent, h] at ht

/-! ### Updates outside the table state -/

theorem Safe.keep_setOpnd (v : Word) : Safe (setOpnd v s) := ⟨hs.latency, hs.table⟩
theorem Safe.keep_setRes (v : Word) : Safe (setRes v s) := ⟨hs.latency, hs.table⟩
theorem Safe.keep_setAcc (v : Word) : Safe (setAcc v s) := ⟨hs.latency, hs.table⟩
theorem Safe.keep_cmdError (c : ErrCode) : Safe (cmdError c s) := ⟨hs.latency, hs.table⟩
theorem Safe.keep_clearError : Safe (clearError s) := ⟨hs.latency, hs.table⟩
theorem Safe.keep_respond (v : Response) : Safe (respond v s) := ⟨hs.latency, hs.table⟩
theorem Safe.keep_popInput : Safe (popInput s) := ⟨hs.latency, hs.table⟩

/-! ### Reset and the start of a build -/

theorem Safe.keep_resetBlock : Safe (resetBlock s) := ⟨hs.latency, rfl, rfl, rfl⟩

theorem Safe.keep_startBuild (h : s.tstate = .unbuilt) : Safe (startBuild s) := by
  obtain ⟨ht, -, -⟩ := hs.of_unbuilt h
  refine ⟨hs.latency, s.buildLatency, .beforeStep0, 0, rfl, hs.latency, Nat.le_refl _, ?_⟩
  rw [startBuild_tbl, ht]
  rfl

theorem Safe.keep_startBuild_latch (c : LatchedCmd) (h : s.tstate = .unbuilt) : Safe (startBuild (latch c s)) := by
  obtain ⟨hlat, htable⟩ := hs.keep_startBuild h
  exact ⟨hlat, htable⟩

end

/-! ### The constructor's step -/

/-- The state after the completion step (R114). -/
def published (s : State) : State :=
  match s.pend with
  | none => completed referenceMemory s
  | some p => p.effect (completed referenceMemory s)

theorem published_of_none {s : State} (h : s.pend = none) :
    published s = { s with tbl := referenceMemory, tstate := .built, progress := .idle } := by
  cases s
  cases h
  rfl

theorem published_of_some {s : State} {p : Pending} (h : s.pend = some p) :
    published s = p.effect (completed referenceMemory s) := by
  rw [published, h]

theorem complete_referenceMemory (s : State) : complete referenceMemory s = .next (published s) := by
  unfold complete published
  cases s.pend with
  | none => rfl
  | some p => exact runPending_of_reference (completed_tbl s referenceMemory) p

theorem safe_of_complete {s t : State} (hlat : 1 ≤ s.buildLatency) (h : complete referenceMemory s = .next t) :
    Safe t := by
  obtain ⟨htbl, hb, hp, hprog, -, -, hl, -, -⟩ := complete_next h
  exact ⟨hl ▸ hlat, by rw [TableConsistent, hb]; exact ⟨htbl, hp, hprog⟩⟩

section
variable {s : State} (hs : Safe s) (hb : s.tstate = .building)
include hs hb

/-- The last constructor step finishes the micro-sequence, wherever it stands (R113 (a), R114). -/
theorem constructorStep_last (m : Nat) {q : Sequencer} (hp : s.progress = .active 1 q) :
    constructorStep m s = .next (published s) := by
  obtain ⟨brem, q', k, hp', -, -, hk⟩ := hs.of_building hb
  obtain ⟨rfl, rfl⟩ := Progress.active.inj (hp.symm.trans hp')
  rw [constructorStep, hb, hp]
  simp only [Nat.le_refl, if_true, runMicro_finish hk]
  exact complete_referenceMemory s

/-- Any other constructor step goes on in the micro-sequence (R112). -/
theorem constructorStep_counts (m : Nat) {brem : Nat} {q : Sequencer}
    (hp : s.progress = .active (brem + 2) q) :
    ∃ q' t' k, runMicro m q s.tbl = .ok (q', t') ∧ runMicro k .beforeStep0 [] = .ok (q', t') ∧
      constructorStep m s = .next (setProgress (.active (brem + 1) q') (setTbl t' s)) := by
  obtain ⟨_, _, k, hp', -, -, hk⟩ := hs.of_building hb
  obtain ⟨rfl, rfl⟩ := Progress.active.inj (hp.symm.trans hp')
  obtain ⟨q', t', hm, hkm⟩ := runMicro_continue hk m
  have hlast : ¬ brem + 2 ≤ 1 := by omega
  refine ⟨q', t', k + m, hm, hkm, ?_⟩
  rw [constructorStep, hb, hp]
  simp only [if_neg hlast, hm]
  rfl

end

/-- A constructor step from a safe state answers a safe state. -/
theorem Safe.constructorStep_answers {s : State} (hs : Safe s) (m : Nat) :
    ∃ u, constructorStep m s = .next u ∧ Safe u := by
  by_cases hb : s.tstate = .building
  · obtain ⟨brem, q, _, hp, h1, hle, _⟩ := hs.of_building hb
    obtain rfl | ⟨n, rfl⟩ : brem = 1 ∨ ∃ n, brem = n + 2 := by
      rcases Nat.lt_or_ge brem 2 with hlt | hge
      · exact .inl (by omega)
      · exact .inr ⟨brem - 2, by omega⟩
    · exact ⟨published s, constructorStep_last hs hb m hp,
        safe_of_complete hs.latency (complete_referenceMemory s)⟩
    · obtain ⟨q', t', k, -, hk, hstep⟩ := constructorStep_counts hs hb m hp
      refine ⟨_, hstep, hs.latency, ?_⟩
      rw [TableConsistent, setProgress_tstate, setTbl_tstate, hb]
      exact ⟨n + 1, q', k, rfl, by omega, Nat.le_of_succ_le hle, hk⟩
  · exact ⟨s, constructorStep_disabled m hb, hs⟩

/-! ### The commands -/

theorem issueDirect_total {s : State} {run : State → Result} (h : ∃ t, run s = .next t) :
    ∃ t, issueDirect s run = .next t := by
  by_cases hb : s.tstate = .building
  · exact ⟨_, issueDirect_building run hb⟩
  · rwa [issueDirect_ready run hb]

theorem issueTable_total {s : State} (c : LatchedCmd) {run : State → Result}
    (h : s.tstate = .built → ∃ t, run s = .next t) : ∃ t, issueTable c s run = .next t := by
  cases hb : s.tstate with
  | unbuilt => exact ⟨_, issueTable_unbuilt c run hb⟩
  | building => exact ⟨_, issueTable_building c run hb⟩
  | built => rw [issueTable_built c run hb]; exact h hb

section
variable {s : State} (hs : Safe s)
include hs

/-- A well-formed command answers a next state: the only faults are table reads, and they need Built. -/
theorem Safe.exec_total {i : Instr} (hw : i.wf = true) : ∃ t, exec i s = .next t := by
  cases i with
  | tbuild =>
    cases hb : s.tstate with
    | unbuilt => exact ⟨_, exec_tbuild_unbuilt s hb⟩
    | building => exact ⟨_, exec_tbuild_building s hb⟩
    | built => exact ⟨_, exec_tbuild_built s hb⟩
  | tread k =>
    rw [exec_tread s (Instr.wf_tread.mp hw)]
    exact issueTable_total _ fun hb => ⟨_, loadEntry_of_reference (hs.of_built hb).1 _⟩
  | updb b =>
    rw [exec_updb]
    exact issueTable_total _ fun hb => ⟨_, foldAcc_of_reference (hs.of_built hb).1 _⟩
  | updw c =>
    obtain ⟨h1, h4⟩ := Instr.wf_updw.mp hw
    rw [exec_updw s h1 h4]
    exact issueTable_total _ fun hb => ⟨_, foldAcc_of_reference (hs.of_built hb).1 _⟩
  | nop | revbits | bswap | ainit | aload | final | clrerr =>
    simp only [exec_nop, exec_revbits, exec_bswap, exec_ainit, exec_aload, exec_final, exec_clrerr]
    exact issueDirect_total ⟨_, rfl⟩

theorem Safe.of_exec {i : Instr} {t : State} (h : exec i s = .next t) : Safe t := by
  rcases exec_next h with ⟨-, rfl⟩ | ⟨hb, -, rfl⟩ | ⟨c, hb, -, rfl⟩ | ⟨-, rfl⟩ | ⟨-, -, rfl⟩ | ⟨v, -, -, rfl⟩ |
    ⟨v, -, -, rfl⟩
  · exact hs.keep_cmdError _
  · exact hs.keep_startBuild hb
  · exact hs.keep_startBuild_latch c hb
  · exact hs
  · exact hs.keep_clearError
  · exact hs.keep_setRes v
  · exact hs.keep_setAcc v

/-! ### The access and the step -/

theorem Safe.issue_answers (v : Word) : ∃ t, issue v s = .next t ∧ Safe t := by
  by_cases hb : s.tstate = .building
  · exact ⟨_, issue_building v hb, hs.keep_cmdError _⟩
  · cases hd : decode v with
    | illegal why => exact ⟨_, issue_illegal hb hd, hs.keep_cmdError _⟩
    | command i =>
      obtain ⟨hw, -⟩ := decode_eq_command.mp hd
      obtain ⟨t, ht⟩ := hs.exec_total hw
      exact ⟨t, (issue_command hb hd).trans ht, hs.of_exec ht⟩

theorem Safe.deliver_answers (r : Request) : ∃ t, deliver r s = .next t ∧ Safe t := by
  cases hl : r.legal with
  | false => exact ⟨_, deliver_illegal s hl, hs.keep_respond _⟩
  | true =>
    rcases legal_cases hl with ⟨v, rfl⟩ | ⟨v, rfl⟩ | ⟨hw, -⟩
    · rw [deliver_cmd]
      exact (hs.keep_respond _).issue_answers v
    · exact ⟨_, deliver_opnd v s, (hs.keep_setOpnd v).keep_respond _⟩
    · obtain ⟨v, hv⟩ := deliver_read s hl hw
      exact ⟨_, hv, hs.keep_respond _⟩

theorem Safe.accessPart_answers (c : Cycle) : ∃ t, accessPart c s = .next t ∧ Safe t := by
  cases hq : c.req with
  | none => exact ⟨s, accessPart_none s hq, hs⟩
  | some r => rw [accessPart_some s hq]; exact hs.deliver_answers r

/-- Every step from a safe state answers a safe state. -/
theorem Safe.step_answers : ∃ t, step s = .next t ∧ Safe t := by
  cases hr : (coming s).rst with
  | true => exact ⟨_, step_reset hr, hs.keep_popInput.keep_resetBlock⟩
  | false =>
    cases hc : (coming s).construct with
    | none => rw [step_access hr hc]; exact hs.keep_popInput.accessPart_answers _
    | some m =>
      obtain ⟨u, hu, hus⟩ := hs.keep_popInput.constructorStep_answers m
      rw [step_construct hr hc, hu, andThen_next]
      exact hus.accessPart_answers _

end

end Sys2Proof.Machine

open Sys2Proof Sys2Proof.Machine

/-- Settles O40: each part of the step answers a safe state from a safe state. -/
theorem stepKeepsTheInvariant : Obligations.StepKeepsTheInvariant := fun _ hs => hs.step_answers

/-- Settles O37: the micro-sequence can go on from every point of it. -/
theorem constructorStepCountsDown : Obligations.ConstructorStepCountsDown := by
  intro m s brem q hs hb hp
  obtain ⟨q', t', -, hm, -, hstep⟩ := constructorStep_counts hs hb m hp
  exact ⟨q', t', hm, hstep⟩

/-- Settles O38: the last step finishes the table, over which the latched command runs. -/
theorem completionRunsThePendingCommand : Obligations.CompletionRunsThePendingCommand := by
  intro m s q hs hb hp
  rw [constructorStep_last hs hb m hp]
  refine ⟨fun hn => ?_, fun k w hk => ?_, fun b w hk => ?_, fun n w hk => ?_⟩
  · rw [published_of_none hn]
  all_goals
    rw [published_of_some hk]
    rfl

end

section
/-! SUPPORT. What each part of a step leaves unchanged, and what it does to TSTATE: the constructor's step before
the access, then the access (spec/10_state.md R22, R27, R33, spec/60_exceptions.md R167,
spec/70_reset_and_hazards.md R195, R196). -/

namespace Sys2Proof.Machine

/-- R27: the commands that start a build from Unbuilt. -/
def StartsBuild (i : Instr) : Prop :=
  i = .tbuild ∨ (∃ k, i = .tread k) ∨ (∃ b, i = .updb b) ∨ ∃ c, i = .updw c

/-! ### The access -/

section
variable {v : Word} {s t : State} (h : issue v s = .next t)
include h

theorem issue_frame : t.opnd = s.opnd ∧ t.tbl = s.tbl ∧ t.inputs = s.inputs := by
  rcases issue_next h with ⟨-, rfl⟩ | ⟨_, -, -, rfl⟩ | ⟨i, -, -, hx⟩
  · exact ⟨rfl, rfl, rfl⟩
  · exact ⟨rfl, rfl, rfl⟩
  · obtain ⟨hopnd, htbl, hinputs, -, -⟩ := exec_frame hx
    exact ⟨hopnd, htbl, hinputs⟩

theorem issue_tstate_ne (hne : t.tstate ≠ s.tstate) : s.tstate = .unbuilt ∧ t.tstate = .building ∧
    ∃ i, decode v = .command i ∧ StartsBuild i := by
  rcases issue_next h with ⟨-, rfl⟩ | ⟨_, -, -, rfl⟩ | ⟨i, -, hd, hx⟩
  · exact absurd rfl hne
  · exact absurd rfl hne
  · obtain ⟨hs, ht, -, -, hi⟩ := exec_tstate_ne hx hne
    exact ⟨hs, ht, i, hd, hi⟩

theorem issue_latch_of_tstate_eq (heq : t.tstate = s.tstate) : t.pend = s.pend ∧ t.progress = s.progress := by
  rcases issue_next h with ⟨-, rfl⟩ | ⟨_, -, -, rfl⟩ | ⟨i, -, -, hx⟩
  · exact ⟨rfl, rfl⟩
  · exact ⟨rfl, rfl⟩
  · exact exec_latch_of_tstate_eq hx heq

end

section
variable {c : Cycle} {s t : State} (h : accessPart c s = .next t)
include h

theorem accessPart_frame : t.tbl = s.tbl ∧ t.inputs = s.inputs := by
  rcases accessPart_next h with ⟨-, rfl⟩ | ⟨_, -, -, rfl⟩ | ⟨_, _, -, -, -, rfl⟩ | ⟨_, -, rfl⟩ | ⟨v, -, hi⟩
  case inr.inr.inr.inr =>
    obtain ⟨-, htbl, hinputs⟩ := issue_frame hi
    exact ⟨htbl, hinputs⟩
  all_goals exact ⟨rfl, rfl⟩

theorem accessPart_opnd_ne (hne : t.opnd ≠ s.opnd) : c.req = some (Request.wr 0x04#5 t.opnd) := by
  rcases accessPart_next h with ⟨-, rfl⟩ | ⟨_, -, -, rfl⟩ | ⟨_, _, -, -, -, rfl⟩ | ⟨v, hq, rfl⟩ | ⟨v, -, hi⟩
  case inr.inr.inr.inl => exact hq
  case inr.inr.inr.inr =>
    obtain ⟨hopnd, -, -⟩ := issue_frame hi
    exact absurd hopnd hne
  all_goals exact absurd rfl hne

theorem accessPart_tstate_ne (hne : t.tstate ≠ s.tstate) : s.tstate = .unbuilt ∧ t.tstate = .building ∧
    ∃ v i, c.req = some (Request.wr 0x00#5 v) ∧ decode v = .command i ∧ StartsBuild i := by
  rcases accessPart_next h with ⟨-, rfl⟩ | ⟨_, -, -, rfl⟩ | ⟨_, _, -, -, -, rfl⟩ | ⟨_, -, rfl⟩ | ⟨v, hq, hi⟩
  case inr.inr.inr.inr =>
    obtain ⟨hs, ht, i, hd, hstart⟩ := issue_tstate_ne hi hne
    exact ⟨hs, ht, v, i, hq, hd, hstart⟩
  all_goals exact absurd rfl hne

theorem accessPart_latch_of_tstate_eq (heq : t.tstate = s.tstate) :
    t.pend = s.pend ∧ t.progress = s.progress := by
  rcases accessPart_next h with ⟨-, rfl⟩ | ⟨_, -, -, rfl⟩ | ⟨_, _, -, -, -, rfl⟩ | ⟨_, -, rfl⟩ | ⟨v, -, hi⟩
  case inr.inr.inr.inr => exact issue_latch_of_tstate_eq (s := respond .written s) hi heq
  all_goals exact ⟨rfl, rfl⟩

/-- Only Unbuilt is left by an access. -/
theorem accessPart_tstate_of_ne_unbuilt (hs : s.tstate ≠ .unbuilt) : t.tstate = s.tstate := by
  by_contra hne
  obtain ⟨hu, -⟩ := accessPart_tstate_ne h hne
  exact hs hu

/-- An access while Building reaches no register that a command writes (R196). -/
theorem accessPart_building (hs : s.tstate = .building) : t.acc = s.acc ∧ t.res = s.res := by
  rcases accessPart_next h with ⟨-, rfl⟩ | ⟨_, -, -, rfl⟩ | ⟨_, _, -, -, -, rfl⟩ | ⟨_, -, rfl⟩ | ⟨v, -, hi⟩
  case inr.inr.inr.inr =>
    obtain rfl : cmdError .overrun (respond .written s) = t :=
      Host.Outcome.next.inj ((issue_building v (s := respond .written s) hs).symm.trans hi)
    exact ⟨rfl, rfl⟩
  all_goals exact ⟨rfl, rfl⟩

end

/-! ### Before the access -/

/-- `u` is the state in which a cycle without rst performs its access: the constructor has taken its step, if it
takes one in the cycle. -/
def BeforeAccess (s u : State) : Prop :=
  ((coming s).construct = none ∧ u = popInput s) ∨
    ∃ m, (coming s).construct = some m ∧ constructorStep m (popInput s) = .next u

section
variable {s u : State} (h : BeforeAccess s u)
include h

theorem BeforeAccess.frame : u.opnd = s.opnd ∧ u.inputs = s.inputs.tail := by
  rcases h with ⟨-, rfl⟩ | ⟨m, -, hk⟩
  · exact ⟨rfl, rfl⟩
  · obtain ⟨hopnd, -, -, hinputs, -⟩ := constructorStep_frame hk
    exact ⟨hopnd, hinputs⟩

theorem BeforeAccess.eq_popInput (hs : s.tstate ≠ .building) : u = popInput s := by
  rcases h with ⟨-, rfl⟩ | ⟨m, -, hk⟩
  · rfl
  · rw [constructorStep_disabled m (s := popInput s) hs] at hk
    exact (Host.Outcome.next.inj hk).symm

/-- TSTATE changes before the access only by the completion step (R27, R114). -/
theorem BeforeAccess.tstate_ne (hne : u.tstate ≠ s.tstate) :
    s.tstate = .building ∧ u.tstate = .built ∧ (coming s).construct ≠ none ∧
      ∃ brem q, s.progress = .active brem q ∧ brem ≤ 1 := by
  rcases h with ⟨-, rfl⟩ | ⟨m, hc, hk⟩
  · exact absurd rfl hne
  · rcases constructorStep_next hk with ⟨-, rfl⟩ | ⟨_, _, _, _, -, -, -, -, rfl⟩ |
      ⟨brem, q, _, _, hb, hp, hle, -, hcomplete⟩
    · exact absurd rfl hne
    · exact absurd rfl hne
    · obtain ⟨-, hbuilt, -⟩ := complete_next hcomplete
      exact ⟨hb, hbuilt, by simp [hc], brem, q, hp, hle⟩

theorem BeforeAccess.hidden_of_tstate_eq (heq : u.tstate = s.tstate) :
    u.acc = s.acc ∧ u.res = s.res ∧ u.pend = s.pend := by
  rcases h with ⟨-, rfl⟩ | ⟨m, -, hk⟩
  · exact ⟨rfl, rfl, rfl⟩
  · obtain ⟨-, -, -, -, -, -, hsame, -⟩ := constructorStep_frame hk
    exact hsame heq

theorem BeforeAccess.tbl_wf (hwf : s.tbl.wf = true) : u.tbl.wf = true := by
  rcases h with ⟨-, rfl⟩ | ⟨m, -, hk⟩
  · exact hwf
  · rcases constructorStep_next hk with ⟨-, rfl⟩ | ⟨_, _, _, _, -, -, -, hr, rfl⟩ |
      ⟨_, _, _, _, -, -, -, hr, hcomplete⟩
    · exact hwf
    · exact runMicro_wf hr hwf
    · obtain ⟨htbl, -⟩ := complete_next hcomplete
      exact htbl ▸ runMicro_wf hr hwf

end

/-- A step without rst is the constructor's step and then the access. -/
theorem step_next_of_not_rst {s t : State} (hr : (coming s).rst = false) (h : step s = .next t) :
    ∃ u, BeforeAccess s u ∧ accessPart (coming s) u = .next t := by
  rcases step_next h with ⟨hr', -⟩ | ⟨-, u, hu, ha⟩
  · rw [hr] at hr'
    cases hr'
  · exact ⟨u, hu, ha⟩

/-! ### The start and the end of a build -/

/-- While not Building the constructor does nothing, so a step is its access alone. -/
theorem step_not_building {s : State} (hs : s.tstate ≠ .building) (hr : (coming s).rst = false) :
    step s = accessPart (coming s) (popInput s) := by
  cases hc : (coming s).construct with
  | none => exact step_access hr hc
  | some m => rw [step_construct hr hc, constructorStep_disabled m (s := popInput s) hs, andThen_next]

theorem exec_starts_build {i : Instr} {s : State} (hw : i.wf = true) (hi : StartsBuild i)
    (hs : s.tstate = .unbuilt) : ∃ t, exec i s = .next t ∧ t.tstate = .building := by
  rcases hi with rfl | ⟨k, rfl⟩ | ⟨b, rfl⟩ | ⟨c, rfl⟩
  · exact ⟨_, exec_tbuild_unbuilt s hs, rfl⟩
  · exact ⟨_, latchedWhileUnbuilt_tread (Instr.wf_tread.mp hw) s hs, rfl⟩
  · exact ⟨_, latchedWhileUnbuilt_updb b s hs, rfl⟩
  · obtain ⟨h1, h4⟩ := Instr.wf_updw.mp hw
    exact ⟨_, latchedWhileUnbuilt_updw h1 h4 s hs, rfl⟩

theorem published_tstate (s : State) : (published s).tstate = .built := by
  obtain ⟨-, hb, -⟩ := complete_next (complete_referenceMemory s)
  exact hb

/-! ### The constructor does not look at OPND -/

section
variable (w : Word)

theorem loadEntry_setOpnd (k : Nat) (s : State) :
    loadEntry k (setOpnd w s) = Result.andThen (loadEntry k s) fun t => .next (setOpnd w t) := by
  simp only [loadEntry, setOpnd_tbl]
  cases readTbl s.tbl k <;> rfl

theorem foldAcc_setOpnd (m : List Byte) (s : State) :
    foldAcc m (setOpnd w s) = Result.andThen (foldAcc m s) fun t => .next (setOpnd w t) := by
  simp only [foldAcc, setOpnd_tbl, setOpnd_acc]
  cases foldTbl s.tbl s.acc m <;> rfl

theorem runPending_setOpnd (p : Pending) (s : State) :
    runPending p (setOpnd w s) = Result.andThen (runPending p s) fun t => .next (setOpnd w t) := by
  obtain ⟨c, popnd⟩ := p
  cases c with
  | tread k => exact loadEntry_setOpnd w k.toNat s
  | updb b => exact foldAcc_setOpnd w [b] s
  | updw n => exact foldAcc_setOpnd w (firstBytes (byteCount n) popnd) s

theorem complete_setOpnd (t : Memory) (s : State) :
    complete t (setOpnd w s) = Result.andThen (complete t s) fun u => .next (setOpnd w u) := by
  simp only [complete, setOpnd_pend]
  cases s.pend with
  | none => rfl
  | some p => exact runPending_setOpnd w p (completed t s)

theorem constructorStep_setOpnd (m : Nat) (s : State) :
    constructorStep m (setOpnd w s) = Result.andThen (constructorStep m s) fun u => .next (setOpnd w u) := by
  by_cases hb : s.tstate = .building
  · cases hp : s.progress with
    | idle =>
      simp only [constructorStep, setOpnd_tstate, setOpnd_progress, hb, hp]
      rfl
    | active brem q =>
      simp only [constructorStep, setOpnd_tstate, setOpnd_progress, setOpnd_tbl, hb, hp]
      split_ifs
      · cases runMicro Config.tableSize q s.tbl with
        | error e => rfl
        | ok r => exact complete_setOpnd w r.2 s
      · cases runMicro m q s.tbl <;> rfl
  · rw [constructorStep_disabled m (s := setOpnd w s) hb, constructorStep_disabled m hb]
    rfl

end

end Sys2Proof.Machine

open Sys2Proof Sys2Proof.Machine

/-- Settles O41: micro-steps keep the form, and an access stores nothing to the table RAM. -/
theorem stepKeepsTableCanonical : Obligations.StepKeepsTableCanonical := by
  intro s t hwf h
  rcases step_next h with ⟨-, rfl⟩ | ⟨-, u, hu, ha⟩
  · exact Memory.wf_nil
  · obtain ⟨htbl, -⟩ := accessPart_frame ha
    exact htbl ▸ BeforeAccess.tbl_wf hu hwf

/-- Settles O32: TSTATE can change in the constructor's step, by completion, and in the access, by a command that
starts a build. -/
theorem tableStateTransitions : Obligations.TableStateTransitions := by
  refine ⟨fun s => ?_, fun s hr => ⟨_, step_reset hr, rfl⟩, fun s v i hs hr hq hd hi => ?_,
    fun s m q hsafe hs hp hr hc => ?_, fun s t h hne => ?_⟩
  · cases s.tstate <;> decide
  · obtain ⟨hw, -⟩ := decode_eq_command.mp hd
    have hs' : (respond .written (popInput s)).tstate = .unbuilt := hs
    obtain ⟨t, ht, hb⟩ := exec_starts_build hw hi hs'
    refine ⟨t, ?_, hb⟩
    rw [step_not_building (by simp [hs]) hr, accessPart_some _ hq, deliver_cmd,
      issue_command (by simp [hs]) hd, ht]
  · have hlast := constructorStep_last hsafe.keep_popInput hs m hp
    obtain ⟨t, ht, hts⟩ := hsafe.step_answers
    have ha : accessPart (coming s) (published (popInput s)) = .next t := by
      rw [← ht, step_construct hr hc, hlast, andThen_next]
    have hb : (published (popInput s)).tstate = .built := published_tstate _
    exact ⟨t, ht, (accessPart_tstate_of_ne_unbuilt ha (by simp [hb])).trans hb⟩
  · rcases step_next h with ⟨hr, rfl⟩ | ⟨-, u, hu, ha⟩
    · exact .inl ⟨hr, rfl⟩
    · by_cases huse : u.tstate = s.tstate
      · rw [← huse] at hne
        obtain ⟨hun, hb, v, i, hq, hd, hi⟩ := accessPart_tstate_ne ha hne
        exact .inr (.inl ⟨huse ▸ hun, hb, v, i, hq, hd, hi⟩)
      · obtain ⟨hs, hb, hc, hlast⟩ := BeforeAccess.tstate_ne hu huse
        exact .inr (.inr ⟨hs, (accessPart_tstate_of_ne_unbuilt ha (by simp [hb])).trans hb, hc, hlast⟩)

/-- Settles O33: the constructor does nothing in Built, and an access does not leave Built. -/
theorem builtTableIsImmutable : Obligations.BuiltTableIsImmutable := by
  intro s t hs hr h
  obtain ⟨u, hu, ha⟩ := step_next_of_not_rst hr h
  obtain rfl : u = popInput s := hu.eq_popInput (by simp [hs])
  have heq : t.tstate = (popInput s).tstate := accessPart_tstate_of_ne_unbuilt ha (by simp [hs])
  obtain ⟨htbl, -⟩ := accessPart_frame ha
  obtain ⟨hpend, -⟩ := accessPart_latch_of_tstate_eq ha heq
  have hbuilt : t.tstate = .built := heq.trans hs
  exact ⟨hbuilt, htbl, fun k => by rw [htbl, popInput_tbl], by rw [busy, hbuilt]; rfl, hpend⟩

/-- Settles O34: of the parts of a step only an access writes OPND, and the constructor's part commutes with
writing it. -/
theorem opndChangesOnlyByBusWrite : Obligations.OpndChangesOnlyByBusWrite := by
  refine ⟨fun s t h hne => ?_, fun s v hc => ?_, fun s hc => ?_, fun i s t h => ?_,
    fun m s w => constructorStep_setOpnd w m s⟩
  · rcases step_next h with ⟨hr, -⟩ | ⟨-, u, hu, ha⟩
    · exact .inl hr
    · obtain ⟨hopnd, -⟩ := BeforeAccess.frame hu
      exact .inr (accessPart_opnd_ne ha (hopnd ▸ hne))
  · rw [step_ofRequest hc, deliver_opnd]
    rfl
  · rw [step_ofRequest hc]
    rfl
  · obtain ⟨hopnd, -⟩ := exec_frame h
    exact hopnd

/-- Settles O35: a step that ends in Building is no completion step, and an access while Building writes neither
RES nor ACC. -/
theorem nothingVisibleDuringBuild : Obligations.NothingVisibleDuringBuild := by
  intro s t hs ht h
  rcases step_next h with ⟨-, rfl⟩ | ⟨-, u, hu, ha⟩
  · cases ht
  · have huse : u.tstate = s.tstate := by
      by_contra hne
      obtain ⟨-, hb, -⟩ := BeforeAccess.tstate_ne hu hne
      have hbuilt : t.tstate = .built := (accessPart_tstate_of_ne_unbuilt ha (by simp [hb])).trans hb
      rw [ht] at hbuilt
      cases hbuilt
    obtain ⟨hacc, hres, hpend⟩ := BeforeAccess.hidden_of_tstate_eq hu huse
    have hub : u.tstate = .building := huse.trans hs
    obtain ⟨hacc', hres'⟩ := accessPart_building ha hub
    obtain ⟨hpend', -⟩ := accessPart_latch_of_tstate_eq ha (ht.trans hub.symm)
    exact ⟨hacc'.trans hacc, hres'.trans hres, hpend'.trans hpend⟩

end

section
/-! SUPPORT. A build that is started completes: each step takes an entry from the queue or a constructor step from
those that are left (spec/41_table.md R112). -/

namespace Sys2Proof.Machine

@[simp] theorem coming_nil {s : State} (h : s.inputs = []) : coming s = Cycle.quiet := by
  rw [coming, h]; rfl

/-- While the queue is empty the constructor goes on (log entry 2). -/
theorem inputs_ne_nil_of_no_construct {s : State} (h : (coming s).construct = none) : s.inputs ≠ [] := by
  intro hnil
  rw [coming_nil hnil] at h
  cases h

/-- A queue without a reset has none to come. -/
theorem coming_rst_of_inputs {s : State} (h : ∀ c ∈ s.inputs, c.rst = false) : (coming s).rst = false := by
  cases hi : s.inputs with
  | nil => rw [coming_nil hi]; rfl
  | cons c cs =>
    rw [coming_cons s c cs hi]
    exact h c (by simp [hi])

/-- How much of a build is left at most: the cycles in the queue and the constructor steps. -/
def BuildLeft (n : Nat) (s : State) : Prop :=
  s.tstate = .building ∧ ∃ brem q, s.progress = .active brem q ∧ s.inputs.length + brem ≤ n

theorem BuildLeft.ne_zero {n : Nat} {s : State} (hs : Safe s) (h : BuildLeft n s) : n ≠ 0 := by
  obtain ⟨hb, brem, q, hp, hle⟩ := h
  obtain ⟨_, _, _, hp', h1, -, -⟩ := hs.of_building hb
  obtain ⟨rfl, rfl⟩ := Progress.active.inj (hp.symm.trans hp')
  omega

/-- What the constructor's part of a cycle leaves of a build: with no constructor step all of it, and else one step
less or nothing. -/
theorem BeforeAccess.build_left {s u : State} {brem : Nat} {q : Sequencer} (h : BeforeAccess s u)
    (hb : s.tstate = .building) (hp : s.progress = .active brem q) :
    u.tstate = .built ∨ u.tstate = .building ∧
      ∃ brem' q', u.progress = .active brem' q' ∧ s.inputs.tail.length + brem' < s.inputs.length + brem := by
  rcases h with ⟨hc, rfl⟩ | ⟨m, -, hk⟩
  · have hpos : 0 < s.inputs.length := List.length_pos_of_ne_nil (inputs_ne_nil_of_no_construct hc)
    refine .inr ⟨hb, brem, q, hp, ?_⟩
    rw [List.length_tail]
    omega
  · rcases constructorStep_next hk with ⟨hdis, -⟩ | ⟨brem', _, q', _, -, hp', hlt, -, rfl⟩ |
      ⟨_, _, _, _, -, -, -, -, hcomplete⟩
    · simp [hb, hp] at hdis
    · obtain ⟨rfl, -⟩ := Progress.active.inj (hp.symm.trans hp')
      refine .inr ⟨hb, brem - 1, q', rfl, ?_⟩
      rw [List.length_tail]
      omega
    · obtain ⟨-, hbuilt, -⟩ := complete_next hcomplete
      exact .inl hbuilt

/-- Every step without rst takes something from what is left, or finds the table built. -/
theorem step_build_left {n : Nat} {s t : State} (h : BuildLeft (n + 1) s) (hr : (coming s).rst = false)
    (hstep : step s = .next t) : t.inputs = s.inputs.tail ∧ (t.tstate = .built ∨ BuildLeft n t) := by
  obtain ⟨hb, brem, q, hp, hle⟩ := h
  obtain ⟨u, hu, ha⟩ := step_next_of_not_rst hr hstep
  obtain ⟨-, hui⟩ := hu.frame
  obtain ⟨-, hti⟩ := accessPart_frame ha
  refine ⟨hti.trans hui, ?_⟩
  rcases hu.build_left hb hp with hbuilt | ⟨hub, brem', q', hp', hlt⟩
  · exact .inl ((accessPart_tstate_of_ne_unbuilt ha (by simp [hbuilt])).trans hbuilt)
  · have heq : t.tstate = u.tstate := accessPart_tstate_of_ne_unbuilt ha (by simp [hub])
    obtain ⟨-, hprog⟩ := accessPart_latch_of_tstate_eq ha heq
    refine .inr ⟨heq.trans hub, brem', q', hprog.trans hp', ?_⟩
    rw [hti, hui]
    omega

theorem runSteps_succ_of_next {n : Nat} {s t : State} (h : step s = .next t) :
    runSteps (n + 1) s = runSteps n t := by
  rw [runSteps, h, andThen_next]

theorem built_within {n : Nat} {s : State} (hs : Safe s) (h : BuildLeft n s)
    (hr : ∀ c ∈ s.inputs, c.rst = false) :
    ∃ k t, k ≤ n ∧ runSteps k s = .next t ∧ t.tstate = .built := by
  induction n generalizing s with
  | zero => exact absurd rfl (h.ne_zero hs)
  | succ n ih =>
    obtain ⟨t, ht, hts⟩ := hs.step_answers
    obtain ⟨hti, hbuilt | hleft⟩ := step_build_left h (coming_rst_of_inputs hr) ht
    · exact ⟨1, t, Nat.le_add_left 1 n, runSteps_succ_of_next ht, hbuilt⟩
    · obtain ⟨k, t', hk, hrun, hb⟩ := ih hts hleft fun c hc => hr c (List.mem_of_mem_tail (hti ▸ hc))
      exact ⟨k + 1, t', Nat.succ_le_succ hk, (runSteps_succ_of_next ht).trans hrun, hb⟩

end Sys2Proof.Machine

open Sys2Proof Sys2Proof.Machine

/-- Settles O39: the length of the queue and the number of constructor steps left bound the number of steps. -/
theorem buildCompletes : Obligations.BuildCompletes := by
  intro s hs hb hr
  obtain ⟨brem, q, _, hp, -, hle, -⟩ := hs.of_building hb
  exact built_within hs ⟨hb, brem, q, hp, Nat.add_le_add_left hle _⟩ hr

end

section
/-! SUPPORT. The abstract countdown: `State.abstracted` commutes with every part of a step, and on a Built or
Unbuilt state it is the identity (spec/10_state.md R36, spec/41_table.md R115). -/

namespace Sys2Proof.Machine

/-! ### The abstraction -/

theorem abstracted_of_not_building {s : State} (h : s.tstate ≠ .building) : s.abstracted = s := by
  unfold State.abstracted
  split
  · exact absurd ‹_› h
  · rfl

theorem abstracted_of_building {s : State} {brem : Nat} {q : Sequencer} (h : s.tstate = .building)
    (hp : s.progress = .active brem q) :
    s.abstracted = setProgress (.active brem .beforeStep0) (setTbl [] s) := by
  simp only [State.abstracted, h, hp]

section
variable (s : State)

/-- Whatever does not look at the progress and the table RAM is the same on the abstraction. -/
theorem eq_on_abstracted {α : Type} (f : State → α) (hf : ∀ p, f (setProgress p (setTbl [] s)) = f s) :
    f s.abstracted = f s := by
  unfold State.abstracted
  split
  · exact hf _
  · rfl

@[simp] theorem abstracted_opnd : s.abstracted.opnd = s.opnd := eq_on_abstracted s State.opnd fun _ => rfl
@[simp] theorem abstracted_res : s.abstracted.res = s.res := eq_on_abstracted s State.res fun _ => rfl
@[simp] theorem abstracted_acc : s.abstracted.acc = s.acc := eq_on_abstracted s State.acc fun _ => rfl
@[simp] theorem abstracted_tstate : s.abstracted.tstate = s.tstate := eq_on_abstracted s State.tstate fun _ => rfl
@[simp] theorem abstracted_rsp : s.abstracted.rsp = s.rsp := eq_on_abstracted s State.rsp fun _ => rfl

@[simp] theorem statusWord_abstracted : statusWord s.abstracted = statusWord s :=
  eq_on_abstracted s statusWord fun _ => rfl

@[simp] theorem coming_abstracted : coming s.abstracted = coming s := eq_on_abstracted s coming fun _ => rfl

@[simp] theorem readReg_abstracted (g : Reg) : readReg g s.abstracted = readReg g s :=
  eq_on_abstracted s (readReg g) fun _ => by cases g <;> rfl

@[simp] theorem resetBlock_abstracted : resetBlock s.abstracted = resetBlock s :=
  eq_on_abstracted s resetBlock fun _ => rfl

@[simp] theorem published_abstracted : published s.abstracted = published s :=
  eq_on_abstracted s published fun _ => rfl

/-! ### Updates outside the table state commute with it -/

theorem abstracted_respond (v : Response) : (respond v s).abstracted = respond v s.abstracted := by
  simp only [State.abstracted, respond_tstate, respond_progress]
  split <;> rfl

theorem abstracted_setOpnd (v : Word) : (setOpnd v s).abstracted = setOpnd v s.abstracted := by
  simp only [State.abstracted, setOpnd_tstate, setOpnd_progress]
  split <;> rfl

theorem abstracted_popInput : (popInput s).abstracted = popInput s.abstracted := by
  simp only [State.abstracted, popInput_tstate, popInput_progress]
  split <;> rfl

theorem abstracted_cmdError (c : ErrCode) : (cmdError c s).abstracted = cmdError c s.abstracted := by
  simp only [State.abstracted, cmdError_tstate, cmdError_progress]
  split <;> rfl

end

/-- A build that has just begun, with nothing in the table RAM, is its own abstraction. -/
theorem abstracted_startBuild {s : State} (h : s.tbl = []) : (startBuild s).abstracted = startBuild s := by
  rw [abstracted_of_building (s := startBuild s) rfl rfl, ← h]
  rfl

/-! ### The access -/

theorem deliver_read_offset {g : Reg} {s : State} {v : Word} (w : Word) (h : readReg g s = some v) :
    deliver ⟨false, g.offset, 0xF#4, w⟩ s = .next (respond (.data v) s) := by
  rw [deliver, hostPort_read_offset w h]

/-- A legal read answers one register's value in every state. -/
theorem deliver_read_reg {r : Request} (hl : r.legal = true) (hw : r.write = false) :
    ∃ g : Reg, ∀ s, ∃ v, readReg g s = some v ∧ deliver r s = .next (respond (.data v) s) := by
  obtain ⟨w, off, be, wdata⟩ := r
  obtain rfl : w = false := hw
  obtain ⟨rfl, g, rfl, hg⟩ := legal_iff.mp hl
  refine ⟨g, fun s => ?_⟩
  obtain ⟨v, hv⟩ : ∃ v, readReg g s = some v := by
    cases g with
    | cmd => cases hg
    | opnd | res | acc | status => exact ⟨_, rfl⟩
  exact ⟨v, hv, deliver_read_offset wdata hv⟩

section
variable {s t : State} (hs : Safe s)
include hs

/-- What a command leaves is its own abstraction: only a start of a build is in Building, with no table yet. -/
theorem abstracted_of_exec {i : Instr} (hb : s.tstate ≠ .building) (h : exec i s = .next t) :
    t.abstracted = t := by
  rcases exec_next h with ⟨hb', -⟩ | ⟨hu, -, rfl⟩ | ⟨c, hu, -, rfl⟩ | ⟨-, rfl⟩ | ⟨-, -, rfl⟩ | ⟨_, -, -, rfl⟩ |
    ⟨_, -, -, rfl⟩
  case inl => exact absurd hb' hb
  case inr.inl => exact abstracted_startBuild (hs.of_unbuilt hu).1
  case inr.inr.inl => exact abstracted_startBuild (s := latch c s) (hs.of_unbuilt hu).1
  all_goals exact abstracted_of_not_building hb

theorem issue_abstracted {v : Word} (h : issue v s = .next t) : issue v s.abstracted = .next t.abstracted := by
  rcases issue_next h with ⟨hb, rfl⟩ | ⟨why, hb, -, rfl⟩ | ⟨i, hb, -, hx⟩
  · rw [issue_building v (s := s.abstracted) (by simp [hb]), abstracted_cmdError]
  · rwa [abstracted_cmdError, abstracted_of_not_building hb]
  · rwa [abstracted_of_not_building hb, abstracted_of_exec hs hb hx]

theorem accessPart_abstracted {c : Cycle} (h : accessPart c s = .next t) :
    accessPart c s.abstracted = .next t.abstracted := by
  rcases accessPart_next h with ⟨hq, rfl⟩ | ⟨r, hq, hl, rfl⟩ | ⟨r, v, hq, hl, hw, rfl⟩ | ⟨v, hq, rfl⟩ | ⟨v, hq, hi⟩
  · rw [accessPart_none _ hq]
  · rw [accessPart_some _ hq, deliver_illegal _ hl, abstracted_respond]
  · obtain ⟨g, hg⟩ := deliver_read_reg hl hw
    obtain ⟨v', hv, hd⟩ := hg s
    obtain ⟨va, hva, hda⟩ := hg s.abstracted
    obtain rfl : v' = va := Option.some.inj (hv.symm.trans ((readReg_abstracted s g).symm.trans hva))
    rw [accessPart_some _ hq, hd] at h
    rw [accessPart_some _ hq, hda, ← Host.Outcome.next.inj h, abstracted_respond]
  · rw [accessPart_some _ hq, deliver_opnd, abstracted_respond, abstracted_setOpnd]
  · rw [accessPart_some _ hq, deliver_cmd, ← abstracted_respond]
    exact issue_abstracted (hs.keep_respond _) hi

end

/-! ### The constructor's step -/

theorem abstractConstructorStep_disabled (m : Nat) {s : State} (h : s.tstate ≠ .building) :
    abstractConstructorStep m s = .next s := by
  unfold abstractConstructorStep
  split
  · exact absurd ‹_› h
  · rfl

section
variable {s u : State} (hs : Safe s)
include hs

/-- The countdown of form (a) follows the constructor's step, however many micro-steps that takes. -/
theorem constructorStep_abstracted {m : Nat} (h : constructorStep m s = .next u) :
    abstractConstructorStep m s.abstracted = .next u.abstracted := by
  rcases constructorStep_next h with ⟨hdis, rfl⟩ | ⟨brem, q, q', t, hb, hp, hlt, -, rfl⟩ |
    ⟨brem, q, q', t, hb, hp, hle, hr, hc⟩
  · have hb : u.tstate ≠ .building := fun hb => by
      obtain ⟨_, _, _, hp, -⟩ := hs.of_building hb
      simp [hb, hp] at hdis
    exact abstractConstructorStep_disabled m (by simp [hb])
  · rw [abstracted_of_building hb hp, abstracted_of_building (s := setProgress _ (setTbl t s)) hb rfl]
    simp only [abstractConstructorStep, setProgress_tstate, setTbl_tstate, hb, setProgress_progress,
      if_neg (Nat.not_le.mpr hlt)]
    rfl
  · obtain ⟨_, _, _, hp', -, -, hk⟩ := hs.of_building hb
    obtain ⟨rfl, rfl⟩ := Progress.active.inj (hp.symm.trans hp')
    obtain rfl : referenceMemory = t := (Prod.mk.inj (Except.ok.inj ((runMicro_finish hk).symm.trans hr))).2
    have hu : published s = u := Host.Outcome.next.inj ((complete_referenceMemory s).symm.trans hc)
    have habs : abstractConstructorStep m s.abstracted = complete referenceMemory s.abstracted := by
      rw [abstracted_of_building hb hp]
      simp only [abstractConstructorStep, setProgress_tstate, setTbl_tstate, hb, setProgress_progress, if_pos hle]
    rw [habs, complete_referenceMemory, published_abstracted, hu, abstracted_of_not_building]
    simp [← hu, published_tstate]

/-! ### The step -/

/-- The commuting diagram of R115: a step and the abstraction, in either order. -/
theorem step_abstracted {t : State} (h : step s = .next t) : abstractStep s.abstracted = .next t.abstracted := by
  rw [abstractStep, coming_abstracted, ← abstracted_popInput]
  cases hr : (coming s).rst with
  | true =>
    rw [step_reset hr] at h
    rw [clockEdgeWith, if_pos hr, resetBlock_abstracted, ← Host.Outcome.next.inj h, abstracted_of_not_building]
    nofun
  | false =>
    simp only [clockEdgeWith, hr]
    cases hc : (coming s).construct with
    | none =>
      rw [step_access hr hc] at h
      exact accessPart_abstracted hs.keep_popInput h
    | some m =>
      obtain ⟨u, hu, hus⟩ := hs.keep_popInput.constructorStep_answers m
      rw [step_construct hr hc, hu, andThen_next] at h
      change Result.andThen (abstractConstructorStep m (popInput s).abstracted) _ = _
      rw [constructorStep_abstracted hs.keep_popInput hu]
      exact accessPart_abstracted hus h

end

end Sys2Proof.Machine

open Sys2Proof Sys2Proof.Machine

/-- Settles O42: every step commutes with the abstraction, which keeps all that an access can read. -/
theorem abstractCountdownRefines : Obligations.AbstractCountdownRefines := by
  intro s hs
  obtain ⟨t, ht, -⟩ := hs.step_answers
  exact ⟨t, ht, step_abstracted hs ht, abstracted_rsp t, statusWord_abstracted t, abstracted_res t,
    abstracted_acc t, abstracted_opnd t⟩

end

section
/-! SUPPORT. The update as eight division steps: division by the polynomial is linear and injective, from which the
properties of T and of the CRC function follow (spec/41_table.md R118, spec/42_accumulator.md R131, R139). -/

namespace Sys2Proof.Machine

/-! ### The division step -/

theorem divisionStep_of_low {c : Word} (rp : Word) (h : c.getLsbD 0 = false) : divisionStep rp c = c >>> 1 := by
  rw [divisionStep, h]
  exact BitVec.xor_zero

theorem divisionStep_of_high {c : Word} (rp : Word) (h : c.getLsbD 0 = true) :
    divisionStep rp c = c >>> 1 ^^^ rp := by
  rw [divisionStep, h]; rfl

/-- A division step is linear over XOR (R118 (b)). -/
theorem divisionStep_xor (rp a b : Word) :
    divisionStep rp (a ^^^ b) = divisionStep rp a ^^^ divisionStep rp b := by
  have h0 : (a ^^^ b).getLsbD 0 = (a.getLsbD 0 ^^ b.getLsbD 0) := BitVec.getLsbD_xor
  simp only [divisionStep, BitVec.ushiftRight_xor_distrib, h0]
  cases a.getLsbD 0 <;> cases b.getLsbD 0
  · simp
  · simp [BitVec.xor_assoc]
  · simp only [Bool.xor_false, if_true, Bool.false_eq_true, if_false, BitVec.xor_zero]
    ac_rfl
  · have hswap : (a >>> 1 ^^^ rp) ^^^ (b >>> 1 ^^^ rp) = (a >>> 1 ^^^ b >>> 1) ^^^ (rp ^^^ rp) := by ac_rfl
    simp [hswap]

theorem iterate_divisionStep_xor (rp : Word) (n : Nat) (a b : Word) :
    (divisionStep rp)^[n] (a ^^^ b) = (divisionStep rp)^[n] a ^^^ (divisionStep rp)^[n] b := by
  induction n generalizing a b with
  | zero => rfl
  | succ n ih => simp only [Function.iterate_succ_apply, divisionStep_xor, ih]

/-- Steps that find a 0 in bit 0 only shift. -/
theorem iterate_divisionStep_of_low_zero {rp : Word} {n : Nat} {c : Word}
    (h : ∀ i, i < n → c.getLsbD i = false) : (divisionStep rp)^[n] c = c >>> n := by
  induction n generalizing c with
  | zero => simp
  | succ n ih =>
    have hc : ∀ i, i < n → (c >>> 1).getLsbD i = false := fun i hi => by
      rw [BitVec.getLsbD_ushiftRight, Nat.add_comm]
      exact h (i + 1) (Nat.succ_lt_succ hi)
    rw [Function.iterate_succ_apply, divisionStep_of_low rp (h 0 (Nat.succ_pos n)), ih hc, ← BitVec.shiftRight_add,
      Nat.add_comm]

/-- RPOLY's top bit is 1, so a step that takes RPOLY does not give 0, and one that only shifts loses a 0. -/
theorem eq_zero_of_divisionStep {z : Word} (h : divisionStep rpoly z = 0#32) : z = 0#32 := by
  cases h0 : z.getLsbD 0 with
  | true =>
    rw [divisionStep_of_high rpoly h0] at h
    have h31 := congrArg (BitVec.getLsbD · 31) h
    have htop : rpoly.getLsbD 31 = true := by decide
    simp [-BitVec.getLsbD_eq_getElem, htop] at h31
  | false =>
    rw [divisionStep_of_low rpoly h0] at h
    refine BitVec.eq_of_getLsbD_eq fun i _ => ?_
    cases i with
    | zero => rw [h0, BitVec.getLsbD_zero]
    | succ i =>
      have hi := congrArg (BitVec.getLsbD · i) h
      simpa [Nat.add_comm] using hi

theorem divisionStep_injective : Function.Injective (divisionStep rpoly) := by
  intro x y h
  have hxy : divisionStep rpoly (x ^^^ y) = 0#32 := by rw [divisionStep_xor, h, BitVec.xor_self]
  exact BitVec.xor_eq_zero_iff.mp (eq_zero_of_divisionStep hxy)

theorem iterate_divisionStep_injective (n : Nat) : Function.Injective (divisionStep rpoly)^[n] :=
  divisionStep_injective.iterate n

/-! ### The reference table -/

/-- R118 (a), held to the listing entry by entry. -/
theorem tableEntry_eq_iterate (b : Byte) : tableEntry b = (divisionStep rpoly)^[8] (b.setWidth 32) := by
  have hall : ∀ b : Byte, listedTable.getD b.toNat 0#32 = (divisionStep rpoly)^[8] (b.setWidth 32) := by
    decide +kernel
  rw [tableEntry_eq_listed, hall]

/-- The running value of R110 takes one division step in each iteration. -/
theorem foldl_tableIteration_fst (is : List Nat) (c : Word) (t : List Word) :
    (is.foldl tableIteration (c, t)).1 = (divisionStep rpoly)^[is.length] c := by
  induction is generalizing c t with
  | nil => rfl
  | cons i is ih => exact ih _ _

/-- The entry of a byte with one bit set is the running value of that bit's iteration (R118 (c)). -/
theorem tableEntry_single_bit {k : Nat} (hk : k < 8) :
    tableEntry (0x80#8 >>> k) = (divisionStep rpoly)^[k + 1] 1#32 := by
  have hlow : ∀ k < 8, ∀ i < 7 - k, ((0x80#8 >>> k).setWidth 32).getLsbD i = false := by decide
  have hone : ∀ k < 8, (0x80#8 >>> k).setWidth 32 >>> (7 - k) = 1#32 := by decide
  have hsteps : (divisionStep rpoly)^[8] = (divisionStep rpoly)^[k + 1] ∘ (divisionStep rpoly)^[7 - k] := by
    rw [← Function.iterate_add]
    congr 1
    omega
  rw [tableEntry_eq_iterate, hsteps, Function.comp_apply, iterate_divisionStep_of_low_zero (hlow k hk), hone k hk]

/-! ### The update and the fold -/

/-- A word is its byte 0 and the rest. -/
theorem eq_byteOf_xor_shiftLeft (t : Word) : t = (byteOf t 0).setWidth 32 ^^^ (t >>> 8 <<< 8) := by
  refine BitVec.eq_of_getLsbD_eq fun i hi => ?_
  by_cases h : i < 8
  · simp [byteOf, h, hi]
  · have hi8 : 8 + (i - 8) = i := by omega
    simp [byteOf, h, hi, hi8]

/-- `Upd(a, b)` is eight division steps of a XOR b (R132, R118 (a)). -/
theorem upd_eq_iterate (a : Word) (b : Byte) : upd a b = (divisionStep rpoly)^[8] (a ^^^ b.setWidth 32) := by
  have hsplit (t : Word) : (t >>> 8) ^^^ tableEntry (byteOf t 0) = (divisionStep rpoly)^[8] t := by
    have hlow (i : Nat) (hi : i < 8) : (t >>> 8 <<< 8).getLsbD i = false := by simp [hi]
    have hshift : t >>> 8 <<< 8 >>> 8 = t >>> 8 := by
      refine BitVec.eq_of_getLsbD_eq fun i hi => ?_
      by_cases h : 8 + i < 32
      · simp [h]
      · simp [h, BitVec.getLsbD_of_ge t (8 + i) (by omega)]
    conv_rhs => rw [eq_byteOf_xor_shiftLeft t]
    rw [iterate_divisionStep_xor, ← tableEntry_eq_iterate, iterate_divisionStep_of_low_zero hlow, hshift,
      BitVec.xor_comm]
  exact hsplit _

theorem upd_injective_acc (b : Byte) {x y : Word} (h : upd x b = upd y b) : x = y := by
  rw [upd_eq_iterate, upd_eq_iterate] at h
  exact (BitVec.xor_left_inj _).mp (iterate_divisionStep_injective 8 h)

theorem upd_injective_byte (a : Word) {b b' : Byte} (h : upd a b = upd a b') : b = b' := by
  rw [upd_eq_iterate, upd_eq_iterate] at h
  have hw : b.setWidth 32 = b'.setWidth 32 := (BitVec.xor_right_inj _).mp (iterate_divisionStep_injective 8 h)
  simpa using congrArg (BitVec.setWidth 8) hw

theorem fold_append (a : Word) (m m' : List Byte) : fold a (m ++ m') = fold (fold a m) m' := by
  induction m generalizing a with
  | nil => rfl
  | cons b m ih => exact ih (upd a b)

theorem fold_injective_acc (m : List Byte) {x y : Word} (h : fold x m = fold y m) : x = y := by
  induction m generalizing x y with
  | nil => exact h
  | cons b m ih => exact upd_injective_acc b (ih h)

/-! ### Four bytes reach every word -/

/-- Bytes 0 to c-1 of a word, at their places. -/
def lowBytes (c : Nat) (x : Word) : Word := (x.setWidth (8 * c)).setWidth 32

theorem lowBytes_zero (x : Word) : lowBytes 0 x = 0#32 := by
  simp [lowBytes, BitVec.of_length_zero]

theorem lowBytes_four (x : Word) : lowBytes 4 x = x := by
  simp [lowBytes]

theorem lowBytes_succ (c : Nat) (x : Word) :
    lowBytes (c + 1) x = lowBytes c x ^^^ (byteOf x c).setWidth 32 <<< (8 * c) := by
  refine BitVec.eq_of_getLsbD_eq fun i hi => ?_
  simp only [lowBytes, BitVec.getLsbD_xor, BitVec.getLsbD_setWidth, BitVec.getLsbD_shiftLeft, getLsbD_byteOf, hi]
  by_cases h : i < 8 * c
  · simp [h, Nat.lt_of_lt_of_le h (Nat.mul_le_mul_left 8 c.le_succ)]
  · have hback : 8 * c + (i - 8 * c) = i := by omega
    have hbyte : i - 8 * c < 8 ↔ i < 8 * (c + 1) := by omega
    have hword : i - 8 * c < 32 := by omega
    simp [h, hback, hbyte, hword]

/-- As many steps as a byte stands high bring it down to bit 0. -/
theorem iterate_divisionStep_shiftLeft {n : Nat} (hn : n + 8 ≤ 32) (b : Byte) :
    (divisionStep rpoly)^[n] (b.setWidth 32 <<< n) = b.setWidth 32 := by
  have hlow (i : Nat) (hi : i < n) : (b.setWidth 32 <<< n).getLsbD i = false := by
    simp only [BitVec.getLsbD_shiftLeft, hi, decide_true, Bool.not_true, Bool.and_false, Bool.false_and]
  rw [iterate_divisionStep_of_low_zero hlow]
  refine BitVec.eq_of_getLsbD_eq fun i hi => ?_
  simp only [BitVec.getLsbD_ushiftRight, BitVec.getLsbD_shiftLeft, BitVec.getLsbD_setWidth]
  by_cases h : i < 8
  · have hin : n + i < 32 := by omega
    simp [hin]
  · simp [BitVec.getLsbD_of_ge b i (by omega)]

/-- Folding the first bytes of a word is dividing them all at once. -/
theorem fold_firstBytes {c : Nat} (hc : c ≤ 4) (a x : Word) :
    fold a (firstBytes c x) = (divisionStep rpoly)^[8 * c] (a ^^^ lowBytes c x) := by
  induction c with
  | zero =>
    rw [lowBytes_zero, BitVec.xor_zero]
    rfl
  | succ c ih =>
    have hbytes : firstBytes (c + 1) x = firstBytes c x ++ [byteOf x c] := by
      simp [firstBytes, List.range_succ]
    have hsteps : 8 * (c + 1) = 8 + 8 * c := by omega
    calc fold a (firstBytes (c + 1) x)
        = upd ((divisionStep rpoly)^[8 * c] (a ^^^ lowBytes c x)) (byteOf x c) := by
          rw [hbytes, fold_append, ih (by omega)]
          rfl
      _ = (divisionStep rpoly)^[8] ((divisionStep rpoly)^[8 * c]
            (a ^^^ lowBytes c x ^^^ (byteOf x c).setWidth 32 <<< (8 * c))) := by
          rw [upd_eq_iterate, iterate_divisionStep_xor _ (8 * c) (a ^^^ lowBytes c x),
            iterate_divisionStep_shiftLeft (by omega)]
      _ = (divisionStep rpoly)^[8 * (c + 1)] (a ^^^ lowBytes (c + 1) x) := by
          rw [lowBytes_succ, BitVec.xor_assoc, hsteps, Function.iterate_add_apply]

/-- On the finitely many words an injective division is onto. -/
theorem iterate_divisionStep_surjective (n : Nat) : Function.Surjective (divisionStep rpoly)^[n] :=
  Finite.surjective_of_injective (iterate_divisionStep_injective n)

theorem exists_firstBytes_fold_eq (a w : Word) : ∃ x, fold a (firstBytes 4 x) = w := by
  obtain ⟨z, hz⟩ := iterate_divisionStep_surjective (8 * 4) w
  refine ⟨a ^^^ z, ?_⟩
  rw [fold_firstBytes (Nat.le_refl 4), lowBytes_four, ← BitVec.xor_assoc, BitVec.xor_self, BitVec.zero_xor, hz]

end Sys2Proof.Machine

open Sys2Proof Sys2Proof.Machine

/-- Settles O43: all of it follows from the closed form, as division is linear and injective. -/
theorem referenceTableProperties : Obligations.ReferenceTableProperties := by
  refine ⟨tableEntry_eq_iterate, fun a b => ?_, fun k hk => ?_, ?_, fun n => ⟨fun h => ?_, fun h => ?_⟩⟩
  · simp only [tableEntry_eq_iterate, BitVec.setWidth_xor, iterate_divisionStep_xor]
  · have hlen : ([128, 64, 32, 16, 8, 4, 2, 1].take (k + 1)).length = k + 1 := by
      rw [List.length_take]
      exact Nat.min_eq_left hk
    rw [foldl_tableIteration_fst, hlen, tableEntry_single_bit hk]
  · simp only [List.map_cons, List.map_nil, tableEntry_eq_listed]
    decide
  · have hzero : (divisionStep rpoly)^[8] 0#32 = 0#32 := by
      rw [iterate_divisionStep_of_low_zero fun _ _ => BitVec.getLsbD_zero, BitVec.zero_ushiftRight]
    rw [tableEntry_eq_iterate, ← hzero] at h
    simpa using congrArg (BitVec.setWidth 8) (iterate_divisionStep_injective 8 h)
  · exact h ▸ tableEntry_listed_ends.1

/-- Settles O45: division is injective, hence onto, and four bytes make up any word. -/
theorem everyAccumulatorIsReachable : Obligations.EveryAccumulatorIsReachable := by
  refine ⟨fun b x y => upd_injective_acc b, fun a w => ?_⟩
  obtain ⟨x, hx⟩ := exists_firstBytes_fold_eq a w
  exact ⟨byteOf x 0, byteOf x 1, byteOf x 2, byteOf x 3, hx⟩

/-- Settles O46: the update tells the two bytes apart, and no later byte brings the accumulators together. -/
theorem singleBitChangesAreDetected : Obligations.SingleBitChangesAreDetected := by
  intro m m' b j hj h
  have hbit : ∀ j < 8, 1#8 <<< j ≠ 0#8 := by decide
  rw [crc32, crc32, fold_append, fold_append] at h
  have hupd : upd (fold Config.initAcc m) (b ^^^ (1#8 <<< j)) = upd (fold Config.initAcc m) b :=
    fold_injective_acc m' ((BitVec.xor_left_inj _).mp h)
  have hb : b ^^^ (1#8 <<< j) = b ^^^ 0#8 := (upd_injective_byte _ hupd).trans BitVec.xor_zero.symm
  exact hbit j hj ((BitVec.xor_right_inj b).mp hb)

end

section
/-! SUPPORT. Accesses presented one a cycle through the queue, and the lines of `wait`
(spec/42_accumulator.md R136, R137, spec/30_encoding.md R89, R90). -/

namespace Sys2Proof.Machine

/-! ### One access a cycle -/

/-- A state with the accesses `rs` to come and nothing else. -/
def queued (rs : List Request) (s : State) : State := { s with inputs := rs.map Cycle.ofRequest }

theorem step_queued (r : Request) (rs : List Request) (s : State) :
    step (queued (r :: rs) s) = deliver r (queued rs (respond .silent s)) :=
  step_ofRequest (coming_cons _ _ _ rfl)

/-- A command line issues its command. -/
theorem step_queued_cmdLine {i : Instr} (hw : i.wf = true) {s : State} (hb : s.tstate ≠ .building)
    (rs : List Request) : step (queued (cmdLine i :: rs) s) = exec i (respond .written (queued rs s)) := by
  rw [step_queued, cmdLine, deliver_cmd]
  exact issue_command (s := respond .written (queued rs s)) hb (decode_encode hw)

theorem step_queued_wOpnd (v : Word) (rs : List Request) (s : State) :
    step (queued (wOpnd v :: rs) s) = .next (respond .written (queued rs (setOpnd v s))) := by
  rw [step_queued, wOpnd, deliver_opnd]
  rfl

/-- A read line answers what the register holds. -/
theorem step_queued_read {g : Reg} {s : State} {v : Word} (h : readReg g s = some v) (rs : List Request) :
    step (queued (Request.rd g.offset :: rs) s) = .next (respond (.data v) (queued rs s)) := by
  have hread : readReg g (queued rs (respond .silent s)) = some v := by
    cases g <;> exact h
  exact (step_queued _ rs s).trans (deliver_read_offset _ hread)

/-- A step does not look at what the last one answered. -/
theorem runSteps_respond (n : Nat) (v : Response) (s : State) :
    runSteps (n + 1) (respond v s) = runSteps (n + 1) s := rfl

theorem Safe.keep_queued {s : State} (hs : Safe s) (rs : List Request) : Safe (queued rs s) :=
  ⟨hs.latency, hs.table⟩

/-! ### A stream of bytes -/

theorem step_queued_updb {s : State} (hs : Safe s) (hb : s.tstate = .built) (b : Byte) (rs : List Request) :
    step (queued (cmdLine (.updb b) :: rs) s) =
      .next (respond .written (queued rs (setAcc (upd s.acc b) s))) := by
  have hs' : Safe (respond .written (queued rs s)) := (hs.keep_queued rs).keep_respond _
  rw [step_queued_cmdLine rfl (by simp [hb]), exec_updb_safe hs' hb]
  rfl

theorem crcBytes_cons (b : Byte) (m : List Byte) : crcBytes (b :: m) = cmdLine (.updb b) :: crcBytes m := rfl

/-- One UPDB a byte folds the bytes into ACC, when another access follows. -/
theorem runSteps_crcBytes (m : List Byte) (n : Nat) {s : State} (hs : Safe s) (hb : s.tstate = .built)
    (rs : List Request) :
    runSteps (m.length + (n + 1)) (queued (crcBytes m ++ rs) s) =
      runSteps (n + 1) (queued rs (setAcc (fold s.acc m) s)) := by
  induction m generalizing s with
  | nil => rw [List.length_nil, Nat.zero_add]; rfl
  | cons b m ih =>
    have hlen : (b :: m).length + (n + 1) = m.length + n + 1 + 1 := by
      rw [List.length_cons]
      omega
    rw [hlen, crcBytes_cons, List.cons_append, runSteps_succ_of_next (step_queued_updb hs hb b _),
      runSteps_respond, Nat.add_assoc, ih (s := setAcc (upd s.acc b) s) (hs.keep_setAcc _) hb]
    rfl

/-- Presenting one UPDB a byte and a read of ACC (R137, R25). -/
theorem runSteps_crcBytes_rAcc (m : List Byte) {s : State} (hs : Safe s) (hb : s.tstate = .built) :
    runSteps (m.length + 1) (queued (crcBytes m ++ [rAcc]) s) =
      .next (respond (.data (fold s.acc m)) (queued [] (setAcc (fold s.acc m) s))) := by
  have hread : step (queued [rAcc] (setAcc (fold s.acc m) s)) =
      .next (respond (.data (fold s.acc m)) (queued [] (setAcc (fold s.acc m) s))) :=
    step_queued_read (g := .acc) rfl []
  rw [runSteps_crcBytes m 0 hs hb, runSteps_succ_of_next hread]
  rfl

/-! ### The lines of `wait` -/

theorem hostRun_succ_of_ok {n : Nat} {h h' : HostMachine} (hstep : hostStep none h = .ok h') :
    hostRun (n + 1) h = hostRun n h' := by
  rw [hostRun, hstep]

/-- A host's read of STATUS answers it and leaves the queue as it was. -/
theorem step_read_status (s : State) :
    step { s with inputs := ⟨false, none, some (Request.rd 0x10#5)⟩ :: s.inputs } =
      .next (respond (.data (statusWord s)) s) := by
  have hcoming := coming_cons { s with inputs := ⟨false, none, some (Request.rd 0x10#5)⟩ :: s.inputs } _ _ rfl
  exact (step_ofRequest hcoming).trans (deliver_read_offset (g := .status) 0#32 rfl)

section
variable {m : Option Nat} {h h' : HostMachine} {x l : String}

theorem hostStep_of_read {off : BitVec 5} (hl : h.lines[h.next]? = some (.read off x))
    (ha : h.access m (Request.rd off) = .ok h') : hostStep m h = .ok (h'.store x) := by
  rw [hostStep, hl]
  simp only [ha]

theorem hostStep_of_bnz_taken {i : Fin 32} {v : Word} {k : Nat} (hl : h.lines[h.next]? = some (.bnz x i l))
    (hv : readVar h.vars x = .ok v) (hi : v.getLsbD i.val = true)
    (hk : h.lines.findIdx? (· = .label l) = some k) : hostStep m h = .ok { h with next := k } := by
  rw [hostStep, hl]
  simp only [hv, hi, hk, if_true]

theorem hostStep_of_bnz_not_taken {i : Fin 32} {v : Word} (hl : h.lines[h.next]? = some (.bnz x i l))
    (hv : readVar h.vars x = .ok v) (hi : v.getLsbD i.val = false) :
    hostStep m h = .ok { h with next := h.next + 1 } := by
  rw [hostStep, hl]
  simp only [hv, hi, Bool.false_eq_true, if_false]

end

section
variable (l x : String) (vars : List (String × Word)) (s : State)

theorem hostStep_wait_label :
    hostStep none ⟨waitLines l x, 0, vars, s⟩ = .ok ⟨waitLines l x, 1, vars, s⟩ := rfl

theorem hostStep_wait_read :
    hostStep none ⟨waitLines l x, 1, vars, s⟩ =
      .ok ⟨waitLines l x, 2, (x, statusWord s) :: vars, respond (.data (statusWord s)) s⟩ := by
  have haccess : HostMachine.access none (Request.rd 0x10#5) ⟨waitLines l x, 1, vars, s⟩ =
      .ok ⟨waitLines l x, 2, vars, respond (.data (statusWord s)) s⟩ := by
    rw [HostMachine.access, step_read_status]
  exact hostStep_of_read rfl haccess

/-- The branch goes back to the label, the first line of the three, exactly if bit 2 of the variable is 1. -/
theorem hostStep_wait_bnz (v : Word) :
    hostStep none ⟨waitLines l x, 2, (x, v) :: vars, s⟩ =
      .ok ⟨waitLines l x, if v.getLsbD 2 then 0 else 3, (x, v) :: vars, s⟩ := by
  have hvar : readVar ((x, v) :: vars) x = .ok v := by simp [readVar, lookupVar]
  have hlabel : (waitLines l x).findIdx? (· = .label l) = some 0 := by simp [waitLines, List.findIdx?_cons]
  cases hi : v.getLsbD 2 with
  | true => exact hostStep_of_bnz_taken rfl hvar hi hlabel
  | false => exact hostStep_of_bnz_not_taken rfl hvar hi

end

end Sys2Proof.Machine

open Sys2Proof Sys2Proof.Machine

/-- Settles O47: each access is one step; ACC holds the fold when FINAL runs. -/
theorem oneShotComputesCrc32 : Obligations.OneShotComputesCrc32 := by
  intro m s hs hb
  have hready (a : Word) (rs : List Request) : (respond .written (queued rs (setAcc a s))).tstate ≠ .building := by
    simp [queued, hb]
  have hinit : step (queued (cmdLine .ainit :: (crcBytes m ++ crcEnd)) s) =
      .next (respond .written (queued (crcBytes m ++ crcEnd) (setAcc Config.initAcc s))) :=
    (step_queued_cmdLine rfl (by simp [hb]) _).trans (exec_ainit_ready (hready s.acc _))
  have hfinal : step (queued crcEnd (setAcc (fold Config.initAcc m) s)) =
      .next (respond .written (queued [rRes] (setRes (crc32 m) (setAcc (fold Config.initAcc m) s)))) :=
    (step_queued_cmdLine rfl (by simp [hb]) _).trans (exec_final_ready (hready _ _))
  have hread : step (queued [rRes] (setRes (crc32 m) (setAcc (fold Config.initAcc m) s))) =
      .next (respond (.data (crc32 m)) (queued [] (setRes (crc32 m) (setAcc (fold Config.initAcc m) s)))) :=
    step_queued_read (g := .res) rfl []
  calc runSteps (m.length + 2 + 1) (queued (cmdLine .ainit :: (crcBytes m ++ crcEnd)) s)
      = runSteps (m.length + (1 + 1)) (queued (crcBytes m ++ crcEnd) (setAcc Config.initAcc s)) := by
        rw [runSteps_succ_of_next hinit]; rfl
    _ = runSteps (1 + 1) (queued crcEnd (setAcc (fold Config.initAcc m) s)) :=
        runSteps_crcBytes m 1 (s := setAcc Config.initAcc s) (hs.keep_setAcc _) hb crcEnd
    _ = _ := by
        rw [runSteps_succ_of_next hfinal, runSteps_respond, runSteps_succ_of_next hread]
        rfl

/-- Settles O48: OPND and ALOAD put the saved value into ACC, and a fold goes on from it. -/
theorem savedStreamResumes : Obligations.SavedStreamResumes := by
  intro m m' s u hs hb hu hub
  refine ⟨fold s.acc m, rfl, runSteps_crcBytes_rAcc m hs hb, ?_⟩
  have hopnd := step_queued_wOpnd (fold s.acc m) (cmdLine .aload :: (crcBytes m' ++ [rAcc])) u
  have hready : (setOpnd (fold s.acc m) u).tstate ≠ .building := by simp [hub]
  have haload : step (queued (cmdLine .aload :: (crcBytes m' ++ [rAcc])) (setOpnd (fold s.acc m) u)) =
      .next (respond .written (queued (crcBytes m' ++ [rAcc])
        (setAcc (fold s.acc m) (setOpnd (fold s.acc m) u)))) :=
    (step_queued_cmdLine rfl hready _).trans (exec_aload_ready hready)
  calc runSteps (m'.length + 1 + 1 + 1)
        (queued (wOpnd (fold s.acc m) :: cmdLine .aload :: (crcBytes m' ++ [rAcc])) u)
      = runSteps (m'.length + 1) (queued (crcBytes m' ++ [rAcc])
          (setAcc (fold s.acc m) (setOpnd (fold s.acc m) u))) := by
        rw [runSteps_succ_of_next hopnd, runSteps_respond, runSteps_succ_of_next haload, runSteps_respond]
    _ = _ := by
        have hsafe := (hu.keep_setOpnd (fold s.acc m)).keep_setAcc (fold s.acc m)
        rw [runSteps_crcBytes_rAcc m' hsafe hub, setAcc_acc, ← fold_append]
        rfl

/-- Settles O50: `serialize` is the list of the four bytes, byte 0 first. -/
theorem serializedLeastSignificantFirst : Obligations.SerializedLeastSignificantFirst := ⟨fun _ => rfl, rfl⟩

/-- Settles O52: the label, the read and the branch of `wait`, one line after another. -/
theorem waitLoopsWhileBusy : Obligations.WaitLoopsWhileBusy := by
  intro l x vars s
  rw [hostRun_succ_of_ok (hostStep_wait_label l x vars s), hostRun_succ_of_ok (hostStep_wait_read l x vars s),
    hostRun_succ_of_ok (hostStep_wait_bnz l x vars _ _), statusWord_eq, statusOf_busy]
  simp only [decide_eq_true_eq]
  rfl

end
